-- ==== Sys2Proof/Word.lean ====
section
/-! DEFINITION. The word types of the block (00_scope.md R6, R7; 10_state.md R20). -/

namespace Sys2Proof

/-- A Word: 32 bits, bit 0 the least significant; a register, the pc, an address or an instruction word
(00_scope.md R6 `XLEN`, R7; addresses 92_eei_decisions.md D18). -/
abbrev Word := BitVec 32

/-- One byte of the memory bank (20_memory.md R40). -/
abbrev Byte := BitVec 8

/-- A register index as the 5-bit field of an instruction holds it (30_encoding.md R61): x0 to x31, no other value. -/
abbrev Reg := BitVec 5

end Sys2Proof
end

