-- ==== Sys2Proof/Config.lean ====
section
/-! DEFINITION. The parameters of the block (00_scope.md R6) and the one value the spec leaves open. -/

namespace Sys2Proof

/-- The parameter `B_IMM_LAYOUT` (00_scope.md R6; 92_eei_decisions.md D13): how a branch's immediate is assembled. -/
inductive BImmLayout
  /-- 30_encoding.md R71, the default. -/
  | rv32
  /-- 30_encoding.md R72, the source's literal text. -/
  | docLiteral
deriving DecidableEq, Repr

/-- The parameters of R6 that are not fixed numbers. No instruction and no host call changes them (10_state.md R32);
State carries them so that a claim about every state is a claim about every choice of them (log entry 1). -/
structure Config where
  /-- `PMEM_SIZE`, the bytes of the memory bank (OPEN, 92_eei_decisions.md D3). -/
  pmemSize : Nat
  /-- `EXT_M`: the RV32M rows are appended to the registry (OPEN, 92_eei_decisions.md D2). -/
  extM : Bool
  /-- `B_IMM_LAYOUT` (decided `rv32`, alternative `doc_literal`, 92_eei_decisions.md D13). -/
  bImmLayout : BImmLayout
deriving DecidableEq, Repr

/-- `PMEM_BASE`: the guest address of byte 0 of the memory bank (R6, fixed). -/
def pmemBase : Nat := 0x80000000

/-- `RESET_PC` = `PMEM_BASE` (R6, fixed; 70_reset_and_hazards.md R251). -/
def resetPc : Word := BitVec.ofNat 32 pmemBase

/-- `HALT_RET_REG`: x10, whose value the halt signals (R6; 92_eei_decisions.md D6). -/
def haltRetReg : Reg := 10#5

/-- `HALT_RET_MAX`: the "sentinel MAX" an Abort records (R6; 92_eei_decisions.md D14). -/
def haltRetMax : Word := 0xFFFFFFFF#32

/-- The defaults R6 gives for the parameters of `Config`. -/
def Config.default : Config :=
  { pmemSize := 0x08000000, extM := false, bImmLayout := .rv32 }

/-- The constraint of R6 (92_eei_decisions.md D3): `PMEM_BASE + PMEM_SIZE <= 2^32` and `PMEM_SIZE >= 4`. -/
def Config.ok (cfg : Config) : Bool :=
  decide (pmemBase + cfg.pmemSize ≤ 2 ^ 32) && decide (4 ≤ cfg.pmemSize)

/-- FREE VALUE (DESIGN CHOICE, log entry 2): what the u64 retired counter holds after a step retires while the counter
is 2^64 - 1. The spec says the counter "increases by 1" (35_decode_dispatch.md R117) and that it is unsigned 64-bit
(10_state.md R31), and states no value for that sum. The argument is the number of such values drawn before. -/
opaque Config.retiredAfterMax : Nat → BitVec 64

end Sys2Proof
end

