-- ==== Sys2Proof/Machine/State.lean ====
section
/-! DEFINITION. The state of the block (10_state.md), its faults and its reset value (70_reset_and_hazards.md R255). -/

namespace Sys2Proof.Machine

/-- The two faults of the block (60_exceptions.md R221), a closed type as R221 asks. A fault is not a stop of this
model: taking one is a next state whose session is Abort with the fault as its reason (35_decode_dispatch.md R114), so
no step answers with the outcome `fault`. Safe: nothing the hardware goes on with is cut off. -/
inductive Fault
  /-- Raised by `resolve` when no registry entry matches the word at `pc` (R104). Safe: the block aborts here too. -/
  | invalidInstruction (pc : Word)
  /-- Raised by the fetch, a load or a store when a byte of the access lies outside the window; `addr` is the first
  address of the access (R105). Safe: the block aborts here too. -/
  | outOfBoundAccess (addr : Word)
deriving DecidableEq, Repr

/-- Why the model would have no meaning for an instruction. -/
inductive Refusal
  /-- An arm of exec without a meaning; no arm of this model is one. Safe: the model stops. -/
  | notModelled (mnemonic : String)
deriving DecidableEq, Repr

/-- The session state (10_state.md R30). Abort and End carry halt_pc and halt_ret; Abort carries its reason too. -/
inductive Session
  /-- Stop, the initial state: no run is in progress. -/
  | stop
  /-- Running: seen only inside a run (20_memory.md R56). -/
  | running
  /-- Abort (terminal): a step failed. -/
  | abort (haltPc haltRet : Word) (reason : Fault)
  /-- End (terminal): the halt instruction ran. -/
  | ended (haltPc haltRet : Word)
  /-- Quit (terminal): the host's quit command. -/
  | quit
deriving DecidableEq, Repr

/-- The memory bank as (guest address, byte) pairs in canonical form: addresses strictly rising, and no byte equal to
0, which is what an unlisted address reads as ("zero-fills it", 70_reset_and_hazards.md R250; log entry 10). -/
abbrev Memory := List Host.Cell

/-- The whole state: the tuple of 10_state.md, the configuration it is run under (log entry 1), and the model's own
counter of free values (log entry 2). -/
structure State where
  /-- x[0] to x[31] (R20). -/
  regs : Vector Word 32
  /-- The program counter (R23). -/
  pc : Word
  /-- The memory bank (R29). -/
  mem : Memory
  /-- The session state with halt_pc, halt_ret and the abort reason (R30). -/
  session : Session
  /-- The retired counter, a u64 (R31). -/
  retired : BitVec 64
  /-- The parameters (00_scope.md R6); configuration, never changed. -/
  cfg : Config
  /-- MODEL'S OWN: how many free values have been drawn. -/
  draws : Nat
deriving DecidableEq, Repr

/-- The state right after session creation with an empty image and the defaults of R6
(70_reset_and_hazards.md R250 to R255). x[1] to x[31] are `INIT_GPR`, an OPEN parameter whose default is all zero
(DESIGN CHOICE, log entry 3). -/
def State.reset : State :=
  { regs := Vector.replicate 32 0#32
    pc := resetPc
    mem := []
    session := .stop
    retired := 0#64
    cfg := Config.default
    draws := 0 }

end Sys2Proof.Machine
end

