-- ==== Sys2Proof/Machine/Flags.lean ====
section
/-! DEFINITION. There are no flags (10_state.md R26): "comparisons write a general register (SLT, SLTU and their
immediates) or decide a branch inside its effect". The comparisons and the 0 or 1 they write are here. -/

namespace Sys2Proof.Machine

/-- `s(a) < s(b)` on the two's-complement readings (00_scope.md R7). -/
def lessSigned (a b : Word) : Bool := decide (a.toInt < b.toInt)

/-- `u(a) < u(b)` on the unsigned readings (00_scope.md R7). -/
def lessUnsigned (a b : Word) : Bool := decide (a.toNat < b.toNat)

/-- The result of a comparison in a register, `c ? 1 : 0` (41_integer_computational.md R124). -/
def boolWord (c : Bool) : Word := if c then 1#32 else 0#32

end Sys2Proof.Machine
end

