-- ==== Sys2Proof/Syntax.lean ====
section
/-! DEFINITION. The instructions: one constructor per row of spec/opcode_table.json, holding the operand fields of its
word (30_encoding.md R61, R62). -/

namespace Sys2Proof

/-- The seven operand formats (30_encoding.md R62). -/
inductive Format
  | R | I | S | B | U | J | N
deriving DecidableEq, Repr

/-- The name of a registry row: the tag that stands for the row's effect in the closed dispatch that
35_decode_dispatch.md R96 allows. In the order of spec/opcode_table.json. -/
inductive Op
  | auipc | lui | addi | slti | sltiu | xori | ori | andi | slli | srli | srai | add | sub | sll | slt | sltu
  | xor | srl | sra | or | and | jal | jalr | beq | bne | blt | bge | bltu | bgeu | lb | lh | lw | lbu | lhu
  | sb | sh | sw | ebreak | mul | mulh | mulhsu | mulhu | div | divu | rem | remu
deriving DecidableEq, Repr

/-- An instruction: the row it matches and the operand fields of its word, as they stand in the word.

The immediate fields are the raw fields, and the operand decoders (Machine/Operands.lean) assemble the immediate from
them, because the assembly of a branch's immediate depends on `B_IMM_LAYOUT` (30_encoding.md R71, R72; log entry 6):
* formats U and J: `imm` = w[31:12];
* format I: `imm` = w[31:20] (the immediate shifts hold `shamt` = w[24:20], R78);
* formats S and B: `imm` = w[31:25] ++ w[11:7]. -/
inductive Instr
  /-- AUIPC, 41_integer_computational.md R121. -/
  | auipc (rd : Reg) (imm : BitVec 20)
  /-- LUI, 41_integer_computational.md R122. -/
  | lui (rd : Reg) (imm : BitVec 20)
  /-- ADDI, 41_integer_computational.md R123. -/
  | addi (rd rs1 : Reg) (imm : BitVec 12)
  /-- SLTI, 41_integer_computational.md R124. -/
  | slti (rd rs1 : Reg) (imm : BitVec 12)
  /-- SLTIU, 41_integer_computational.md R125. -/
  | sltiu (rd rs1 : Reg) (imm : BitVec 12)
  /-- XORI, 41_integer_computational.md R126. -/
  | xori (rd rs1 : Reg) (imm : BitVec 12)
  /-- ORI, 41_integer_computational.md R127. -/
  | ori (rd rs1 : Reg) (imm : BitVec 12)
  /-- ANDI, 41_integer_computational.md R128. -/
  | andi (rd rs1 : Reg) (imm : BitVec 12)
  /-- SLLI, 41_integer_computational.md R129. -/
  | slli (rd rs1 : Reg) (shamt : BitVec 5)
  /-- SRLI, 41_integer_computational.md R130. -/
  | srli (rd rs1 : Reg) (shamt : BitVec 5)
  /-- SRAI, 41_integer_computational.md R131. -/
  | srai (rd rs1 : Reg) (shamt : BitVec 5)
  /-- ADD, 41_integer_computational.md R132. -/
  | add (rd rs1 rs2 : Reg)
  /-- SUB, 41_integer_computational.md R133. -/
  | sub (rd rs1 rs2 : Reg)
  /-- SLL, 41_integer_computational.md R134. -/
  | sll (rd rs1 rs2 : Reg)
  /-- SLT, 41_integer_computational.md R135. -/
  | slt (rd rs1 rs2 : Reg)
  /-- SLTU, 41_integer_computational.md R136. -/
  | sltu (rd rs1 rs2 : Reg)
  /-- XOR, 41_integer_computational.md R137. -/
  | xor (rd rs1 rs2 : Reg)
  /-- SRL, 41_integer_computational.md R138. -/
  | srl (rd rs1 rs2 : Reg)
  /-- SRA, 41_integer_computational.md R139. -/
  | sra (rd rs1 rs2 : Reg)
  /-- OR, 41_integer_computational.md R140. -/
  | or (rd rs1 rs2 : Reg)
  /-- AND, 41_integer_computational.md R141. -/
  | and (rd rs1 rs2 : Reg)
  /-- JAL, 42_control_transfer.md R151. -/
  | jal (rd : Reg) (imm : BitVec 20)
  /-- JALR, 42_control_transfer.md R152. -/
  | jalr (rd rs1 : Reg) (imm : BitVec 12)
  /-- BEQ, 42_control_transfer.md R153. -/
  | beq (rs1 rs2 : Reg) (imm : BitVec 12)
  /-- BNE, 42_control_transfer.md R154. -/
  | bne (rs1 rs2 : Reg) (imm : BitVec 12)
  /-- BLT, 42_control_transfer.md R155. -/
  | blt (rs1 rs2 : Reg) (imm : BitVec 12)
  /-- BGE, 42_control_transfer.md R156. -/
  | bge (rs1 rs2 : Reg) (imm : BitVec 12)
  /-- BLTU, 42_control_transfer.md R157. -/
  | bltu (rs1 rs2 : Reg) (imm : BitVec 12)
  /-- BGEU, 42_control_transfer.md R158. -/
  | bgeu (rs1 rs2 : Reg) (imm : BitVec 12)
  /-- LB, 43_load_store.md R171. -/
  | lb (rd rs1 : Reg) (imm : BitVec 12)
  /-- LH, 43_load_store.md R172. -/
  | lh (rd rs1 : Reg) (imm : BitVec 12)
  /-- LW, 43_load_store.md R173. -/
  | lw (rd rs1 : Reg) (imm : BitVec 12)
  /-- LBU, 43_load_store.md R174. -/
  | lbu (rd rs1 : Reg) (imm : BitVec 12)
  /-- LHU, 43_load_store.md R175. -/
  | lhu (rd rs1 : Reg) (imm : BitVec 12)
  /-- SB, 43_load_store.md R176. -/
  | sb (rs1 rs2 : Reg) (imm : BitVec 12)
  /-- SH, 43_load_store.md R177. -/
  | sh (rs1 rs2 : Reg) (imm : BitVec 12)
  /-- SW, 43_load_store.md R178. -/
  | sw (rs1 rs2 : Reg) (imm : BitVec 12)
  /-- EBREAK, 44_system_halt.md R190. -/
  | ebreak
  /-- MUL, 45_multiply_divide.md R201. -/
  | mul (rd rs1 rs2 : Reg)
  /-- MULH, 45_multiply_divide.md R202. -/
  | mulh (rd rs1 rs2 : Reg)
  /-- MULHSU, 45_multiply_divide.md R203. -/
  | mulhsu (rd rs1 rs2 : Reg)
  /-- MULHU, 45_multiply_divide.md R204. -/
  | mulhu (rd rs1 rs2 : Reg)
  /-- DIV, 45_multiply_divide.md R205. -/
  | div (rd rs1 rs2 : Reg)
  /-- DIVU, 45_multiply_divide.md R206. -/
  | divu (rd rs1 rs2 : Reg)
  /-- REM, 45_multiply_divide.md R207. -/
  | rem (rd rs1 rs2 : Reg)
  /-- REMU, 45_multiply_divide.md R208. -/
  | remu (rd rs1 rs2 : Reg)
deriving DecidableEq, Repr

/-- The registry row of an instruction. -/
def Instr.op : Instr → Op
  | .auipc _ _ => .auipc
  | .lui _ _ => .lui
  | .addi _ _ _ => .addi
  | .slti _ _ _ => .slti
  | .sltiu _ _ _ => .sltiu
  | .xori _ _ _ => .xori
  | .ori _ _ _ => .ori
  | .andi _ _ _ => .andi
  | .slli _ _ _ => .slli
  | .srli _ _ _ => .srli
  | .srai _ _ _ => .srai
  | .add _ _ _ => .add
  | .sub _ _ _ => .sub
  | .sll _ _ _ => .sll
  | .slt _ _ _ => .slt
  | .sltu _ _ _ => .sltu
  | .xor _ _ _ => .xor
  | .srl _ _ _ => .srl
  | .sra _ _ _ => .sra
  | .or _ _ _ => .or
  | .and _ _ _ => .and
  | .jal _ _ => .jal
  | .jalr _ _ _ => .jalr
  | .beq _ _ _ => .beq
  | .bne _ _ _ => .bne
  | .blt _ _ _ => .blt
  | .bge _ _ _ => .bge
  | .bltu _ _ _ => .bltu
  | .bgeu _ _ _ => .bgeu
  | .lb _ _ _ => .lb
  | .lh _ _ _ => .lh
  | .lw _ _ _ => .lw
  | .lbu _ _ _ => .lbu
  | .lhu _ _ _ => .lhu
  | .sb _ _ _ => .sb
  | .sh _ _ _ => .sh
  | .sw _ _ _ => .sw
  | .ebreak => .ebreak
  | .mul _ _ _ => .mul
  | .mulh _ _ _ => .mulh
  | .mulhsu _ _ _ => .mulhsu
  | .mulhu _ _ _ => .mulhu
  | .div _ _ _ => .div
  | .divu _ _ _ => .divu
  | .rem _ _ _ => .rem
  | .remu _ _ _ => .remu

/-- The operand format of a row (the `format` of spec/opcode_table.json). -/
def Op.format : Op → Format
  | .auipc | .lui => .U
  | .addi | .slti | .sltiu | .xori | .ori | .andi | .slli | .srli | .srai => .I
  | .add | .sub | .sll | .slt | .sltu | .xor | .srl | .sra | .or | .and => .R
  | .jal => .J
  | .jalr => .I
  | .beq | .bne | .blt | .bge | .bltu | .bgeu => .B
  | .lb | .lh | .lw | .lbu | .lhu => .I
  | .sb | .sh | .sw => .S
  | .ebreak => .N
  | .mul | .mulh | .mulhsu | .mulhu | .div | .divu | .rem | .remu => .R

/-- Whether the row belongs to the set `M_EXT` of spec/opcode_table.json, the rows `EXT_M` appends
(35_decode_dispatch.md R98). -/
def Op.isMExt : Op → Bool
  | .auipc | .lui | .addi | .slti | .sltiu | .xori | .ori | .andi | .slli | .srli => false
  | .srai | .add | .sub | .sll | .slt | .sltu | .xor | .srl | .sra | .or => false
  | .and | .jal | .jalr | .beq | .bne | .blt | .bge | .bltu | .bgeu | .lb => false
  | .lh | .lw | .lbu | .lhu | .sb | .sh | .sw | .ebreak => false
  | .mul | .mulh | .mulhsu | .mulhu | .div | .divu | .rem | .remu => true

end Sys2Proof
end

