-- ==== Sys2Proof/WellFormed.lean ====
section
/-! DEFINITION. When an instruction is one the block of a given configuration has. -/

namespace Sys2Proof

/-- An instruction is well formed for a configuration when its row is in the registry: a row of `M_EXT` needs `EXT_M`
(35_decode_dispatch.md R98; 45_multiply_divide.md: "With `EXT_M` false every word of this file faults").
Every value of every operand field is admitted: the field types have the widths of 30_encoding.md R61 and R62. The
decoder makes this check, by its registry; the meaning of an instruction does not make it again (log entry 11). -/
def Instr.wellFormed (cfg : Config) (i : Instr) : Bool :=
  !i.op.isMExt || cfg.extM

end Sys2Proof
end

