-- ==== Sys2Proof/Decode.lean ====
section
/-! DEFINITION. The pattern matcher and the decoder registry (35_decode_dispatch.md R90 to R98), the decoder, and the
encoder written from the formats and opcode values of 30_encoding.md R61, R62, R80. -/

namespace Sys2Proof

/-! ### Fields of an instruction word (30_encoding.md R61) -/

/-- rd = w[11:7]. -/
def fieldRd (w : Word) : Reg := w.extractLsb' 7 5
/-- rs1 = w[19:15]. -/
def fieldRs1 (w : Word) : Reg := w.extractLsb' 15 5
/-- rs2 = w[24:20]. -/
def fieldRs2 (w : Word) : Reg := w.extractLsb' 20 5
/-- shamt = w[24:20] (R78). -/
def fieldShamt (w : Word) : BitVec 5 := w.extractLsb' 20 5
/-- opcode = w[6:0]. -/
def fieldOpcode (w : Word) : BitVec 7 := w.extractLsb' 0 7
/-- funct3 = w[14:12]. -/
def fieldFunct3 (w : Word) : BitVec 3 := w.extractLsb' 12 3
/-- funct7 = w[31:25]. -/
def fieldFunct7 (w : Word) : BitVec 7 := w.extractLsb' 25 7
/-- The raw immediate field of format I, w[31:20]. -/
def fieldImmI (w : Word) : BitVec 12 := w.extractLsb' 20 12
/-- The raw immediate fields of formats S and B, w[31:25] ++ w[11:7]. -/
def fieldImmSB (w : Word) : BitVec 12 := w.extractLsb' 25 7 ++ w.extractLsb' 7 5
/-- The raw immediate field of formats U and J, w[31:12]. -/
def fieldImmUJ (w : Word) : BitVec 20 := w.extractLsb' 12 20

/-! ### Pattern matcher -/

/-- A compiled pattern (35_decode_dispatch.md R91): key and mask are unsigned 64-bit values. -/
structure Compiled where
  key : BitVec 64
  mask : BitVec 64
  shift : Nat
deriving DecidableEq, Repr

/-- Why a pattern does not compile (R90, R91; 92_eei_decisions.md D17). -/
inductive PatternError
  /-- PatternError: the offending character and its 0-based position in the string, spaces counted. -/
  | badChar (c : Char) (position : Nat)
  /-- PatternTooLong: the number of non-space characters, over 64. -/
  | tooLong (n : Nat)
deriving DecidableEq, Repr

/-- The left-to-right scan of R91, from position `j` on: key and mask so far, the trailing-wildcard counter `t` and
the count `n` of non-space characters. The final right shift by `t` is 90_conflicts.md C1's resolution. -/
def compileScan : List Char → Nat → BitVec 64 → BitVec 64 → Nat → Nat → Except PatternError Compiled
  | [], _, key, mask, t, n =>
    if 64 < n then .error (.tooLong n) else .ok ⟨key >>> t, mask >>> t, t⟩
  | c :: cs, j, key, mask, t, n =>
    if c = ' ' then compileScan cs (j + 1) key mask t n
    else if c = '0' then compileScan cs (j + 1) (key <<< 1) (mask <<< 1 ||| 1#64) 0 (n + 1)
    else if c = '1' then compileScan cs (j + 1) (key <<< 1 ||| 1#64) (mask <<< 1 ||| 1#64) 0 (n + 1)
    else if c = '?' then compileScan cs (j + 1) (key <<< 1) (mask <<< 1) (t + 1) (n + 1)
    else .error (.badChar c j)

/-- Compilation of a pattern string (R91). -/
def compilePattern (p : String) : Except PatternError Compiled :=
  compileScan p.toList 0 0#64 0#64 0 0

/-- The match rule (R92): the word, read as a 64-bit value, shifted right and masked, is the key. -/
def Compiled.accepts (c : Compiled) (w : Word) : Bool :=
  ((w.setWidth 64 >>> c.shift) &&& c.mask) == c.key

/-- The non-space characters of a pattern string (R93). -/
def patternLetters (p : String) : List Char := p.toList.filter (· ≠ ' ')

/-- The full-position key K = key << shift (R93). -/
def Compiled.fullKey (c : Compiled) : BitVec 64 := c.key <<< c.shift
/-- The full-position mask M = mask << shift (R93). -/
def Compiled.fullMask (c : Compiled) : BitVec 64 := c.mask <<< c.shift

/-- The overlap check of two entries (R97): ((K1 ^ K2) & M1 & M2) = 0. -/
def Compiled.overlaps (a b : Compiled) : Bool :=
  ((a.fullKey ^^^ b.fullKey) &&& a.fullMask &&& b.fullMask) == 0#64

/-! ### Decoder registry -/

/-- What a registry row is written as: its pattern string, format and effect tag (R95). -/
structure Row where
  pattern : String
  format : Format
  op : Op
deriving DecidableEq, Repr

/-- A registry entry as built: the row with its pattern compiled (R95). -/
structure Entry where
  row : Row
  compiled : Compiled
deriving DecidableEq, Repr

/-- Why a registry is not built (R95; 92_eei_decisions.md D17). The spec says that it is not built and not which reason is
given where several hold: DESIGN CHOICE (log entry 13). -/
inductive RegistryError
  /-- A pattern fails to compile (R91). -/
  | pattern (row : Row) (e : PatternError)
  /-- A pattern does not have exactly 32 non-space characters (R94). -/
  | notWordLength (row : Row) (n : Nat)
  /-- A row overlaps an earlier one (R97). -/
  | overlap (earlier : Row) (row : Row)
deriving DecidableEq, Repr

/-- Append one row to the entries built so far, or say why it may not be appended (R94, R95, R97, R100). DESIGN
CHOICE (log entry 13): of several reasons, a compile error is given before the length, the length before an overlap,
and of several overlapped rows the earliest. -/
def appendRow (built : List Entry) (r : Row) : Except RegistryError (List Entry) :=
  match compilePattern r.pattern with
  | .error e => .error (.pattern r e)
  | .ok c =>
    if (patternLetters r.pattern).length = 32 then
      match built.find? (fun e => e.compiled.overlaps c) with
      | some e => .error (.overlap e.row r)
      | none => .ok (built ++ [⟨r, c⟩])
    else .error (.notWordLength r (patternLetters r.pattern).length)

/-- Append rows in order; the first row that may not be appended gives the reason (DESIGN CHOICE, log entry 13). -/
def appendRows : List Entry → List Row → Except RegistryError (List Entry)
  | built, [] => .ok built
  | built, r :: rs =>
    match appendRow built r with
    | .error e => .error e
    | .ok built' => appendRows built' rs

/-- Building a registry from its rows, in registration order (R95). -/
def buildRegistry (rows : List Row) : Except RegistryError (List Entry) :=
  appendRows [] rows

/-- One row of spec/opcode_table.json: pattern, format, effect, and the `match` and `mask` the table gives, which are
the key and mask of the compiled pattern since every row has shift 0 (R93, R97; log entry 9). -/
def tableRow (pattern : String) (format : Format) (op : Op) (key mask : BitVec 64) : Entry :=
  ⟨⟨pattern, format, op⟩, ⟨key, mask, 0⟩⟩

/-- LUI, AUIPC and the OP-IMM rows, in the order of spec/opcode_table.json. -/
def upperRows : List Entry :=
  [ tableRow "??????? ????? ????? ??? ????? 00101 11" .U .auipc 0x00000017#64 0x0000007F#64,
    tableRow "??????? ????? ????? ??? ????? 01101 11" .U .lui 0x00000037#64 0x0000007F#64,
    tableRow "??????? ????? ????? 000 ????? 00100 11" .I .addi 0x00000013#64 0x0000707F#64,
    tableRow "??????? ????? ????? 010 ????? 00100 11" .I .slti 0x00002013#64 0x0000707F#64,
    tableRow "??????? ????? ????? 011 ????? 00100 11" .I .sltiu 0x00003013#64 0x0000707F#64,
    tableRow "??????? ????? ????? 100 ????? 00100 11" .I .xori 0x00004013#64 0x0000707F#64,
    tableRow "??????? ????? ????? 110 ????? 00100 11" .I .ori 0x00006013#64 0x0000707F#64,
    tableRow "??????? ????? ????? 111 ????? 00100 11" .I .andi 0x00007013#64 0x0000707F#64,
    tableRow "0000000 ????? ????? 001 ????? 00100 11" .I .slli 0x00001013#64 0xFE00707F#64,
    tableRow "0000000 ????? ????? 101 ????? 00100 11" .I .srli 0x00005013#64 0xFE00707F#64,
    tableRow "0100000 ????? ????? 101 ????? 00100 11" .I .srai 0x40005013#64 0xFE00707F#64 ]

/-- The OP rows, in the order of spec/opcode_table.json. -/
def opRows : List Entry :=
  [ tableRow "0000000 ????? ????? 000 ????? 01100 11" .R .add 0x00000033#64 0xFE00707F#64,
    tableRow "0100000 ????? ????? 000 ????? 01100 11" .R .sub 0x40000033#64 0xFE00707F#64,
    tableRow "0000000 ????? ????? 001 ????? 01100 11" .R .sll 0x00001033#64 0xFE00707F#64,
    tableRow "0000000 ????? ????? 010 ????? 01100 11" .R .slt 0x00002033#64 0xFE00707F#64,
    tableRow "0000000 ????? ????? 011 ????? 01100 11" .R .sltu 0x00003033#64 0xFE00707F#64,
    tableRow "0000000 ????? ????? 100 ????? 01100 11" .R .xor 0x00004033#64 0xFE00707F#64,
    tableRow "0000000 ????? ????? 101 ????? 01100 11" .R .srl 0x00005033#64 0xFE00707F#64,
    tableRow "0100000 ????? ????? 101 ????? 01100 11" .R .sra 0x40005033#64 0xFE00707F#64,
    tableRow "0000000 ????? ????? 110 ????? 01100 11" .R .or 0x00006033#64 0xFE00707F#64,
    tableRow "0000000 ????? ????? 111 ????? 01100 11" .R .and 0x00007033#64 0xFE00707F#64 ]

/-- The jumps and branches, in the order of spec/opcode_table.json. -/
def controlRows : List Entry :=
  [ tableRow "??????? ????? ????? ??? ????? 11011 11" .J .jal 0x0000006F#64 0x0000007F#64,
    tableRow "??????? ????? ????? 000 ????? 11001 11" .I .jalr 0x00000067#64 0x0000707F#64,
    tableRow "??????? ????? ????? 000 ????? 11000 11" .B .beq 0x00000063#64 0x0000707F#64,
    tableRow "??????? ????? ????? 001 ????? 11000 11" .B .bne 0x00001063#64 0x0000707F#64,
    tableRow "??????? ????? ????? 100 ????? 11000 11" .B .blt 0x00004063#64 0x0000707F#64,
    tableRow "??????? ????? ????? 101 ????? 11000 11" .B .bge 0x00005063#64 0x0000707F#64,
    tableRow "??????? ????? ????? 110 ????? 11000 11" .B .bltu 0x00006063#64 0x0000707F#64,
    tableRow "??????? ????? ????? 111 ????? 11000 11" .B .bgeu 0x00007063#64 0x0000707F#64 ]

/-- The loads and stores, and EBREAK, in the order of spec/opcode_table.json. -/
def memoryRows : List Entry :=
  [ tableRow "??????? ????? ????? 000 ????? 00000 11" .I .lb 0x00000003#64 0x0000707F#64,
    tableRow "??????? ????? ????? 001 ????? 00000 11" .I .lh 0x00001003#64 0x0000707F#64,
    tableRow "??????? ????? ????? 010 ????? 00000 11" .I .lw 0x00002003#64 0x0000707F#64,
    tableRow "??????? ????? ????? 100 ????? 00000 11" .I .lbu 0x00004003#64 0x0000707F#64,
    tableRow "??????? ????? ????? 101 ????? 00000 11" .I .lhu 0x00005003#64 0x0000707F#64,
    tableRow "??????? ????? ????? 000 ????? 01000 11" .S .sb 0x00000023#64 0x0000707F#64,
    tableRow "??????? ????? ????? 001 ????? 01000 11" .S .sh 0x00001023#64 0x0000707F#64,
    tableRow "??????? ????? ????? 010 ????? 01000 11" .S .sw 0x00002023#64 0x0000707F#64,
    tableRow "0000000 00001 00000 000 00000 11100 11" .N .ebreak 0x00100073#64 0xFFFFFFFF#64 ]

/-- The set `M_EXT`: the RV32M rows, in the order of spec/opcode_table.json. -/
def mExtRows : List Entry :=
  [ tableRow "0000001 ????? ????? 000 ????? 01100 11" .R .mul 0x02000033#64 0xFE00707F#64,
    tableRow "0000001 ????? ????? 001 ????? 01100 11" .R .mulh 0x02001033#64 0xFE00707F#64,
    tableRow "0000001 ????? ????? 010 ????? 01100 11" .R .mulhsu 0x02002033#64 0xFE00707F#64,
    tableRow "0000001 ????? ????? 011 ????? 01100 11" .R .mulhu 0x02003033#64 0xFE00707F#64,
    tableRow "0000001 ????? ????? 100 ????? 01100 11" .R .div 0x02004033#64 0xFE00707F#64,
    tableRow "0000001 ????? ????? 101 ????? 01100 11" .R .divu 0x02005033#64 0xFE00707F#64,
    tableRow "0000001 ????? ????? 110 ????? 01100 11" .R .rem 0x02006033#64 0xFE00707F#64,
    tableRow "0000001 ????? ????? 111 ????? 01100 11" .R .remu 0x02007033#64 0xFE00707F#64 ]

/-- The set `RV32I_HALT`, 38 rows (R98; 92_eei_decisions.md D1, D23). -/
def baseRows : List Entry := upperRows ++ (opRows ++ (controlRows ++ memoryRows))

/-- `REGISTRY` (R98): `RV32I_HALT`, with `M_EXT` appended when `EXT_M` (92_eei_decisions.md D2). -/
def registry (extM : Bool) : List Entry :=
  if extM then baseRows ++ mExtRows else baseRows

/-- `resolve` (R96): the first entry, in registration order, whose pattern matches the word. -/
def resolve (reg : List Entry) (w : Word) : Option Entry :=
  reg.find? (fun e => e.compiled.accepts w)

/-! ### Decoder -/

/-- The instruction a word of the row `op` stands for: the row's effect with the word's operand fields. -/
def Op.instr (op : Op) (w : Word) : Instr :=
  match op with
  | .auipc => .auipc (fieldRd w) (fieldImmUJ w)
  | .lui => .lui (fieldRd w) (fieldImmUJ w)
  | .addi => .addi (fieldRd w) (fieldRs1 w) (fieldImmI w)
  | .slti => .slti (fieldRd w) (fieldRs1 w) (fieldImmI w)
  | .sltiu => .sltiu (fieldRd w) (fieldRs1 w) (fieldImmI w)
  | .xori => .xori (fieldRd w) (fieldRs1 w) (fieldImmI w)
  | .ori => .ori (fieldRd w) (fieldRs1 w) (fieldImmI w)
  | .andi => .andi (fieldRd w) (fieldRs1 w) (fieldImmI w)
  | .slli => .slli (fieldRd w) (fieldRs1 w) (fieldShamt w)
  | .srli => .srli (fieldRd w) (fieldRs1 w) (fieldShamt w)
  | .srai => .srai (fieldRd w) (fieldRs1 w) (fieldShamt w)
  | .add => .add (fieldRd w) (fieldRs1 w) (fieldRs2 w)
  | .sub => .sub (fieldRd w) (fieldRs1 w) (fieldRs2 w)
  | .sll => .sll (fieldRd w) (fieldRs1 w) (fieldRs2 w)
  | .slt => .slt (fieldRd w) (fieldRs1 w) (fieldRs2 w)
  | .sltu => .sltu (fieldRd w) (fieldRs1 w) (fieldRs2 w)
  | .xor => .xor (fieldRd w) (fieldRs1 w) (fieldRs2 w)
  | .srl => .srl (fieldRd w) (fieldRs1 w) (fieldRs2 w)
  | .sra => .sra (fieldRd w) (fieldRs1 w) (fieldRs2 w)
  | .or => .or (fieldRd w) (fieldRs1 w) (fieldRs2 w)
  | .and => .and (fieldRd w) (fieldRs1 w) (fieldRs2 w)
  | .jal => .jal (fieldRd w) (fieldImmUJ w)
  | .jalr => .jalr (fieldRd w) (fieldRs1 w) (fieldImmI w)
  | .beq => .beq (fieldRs1 w) (fieldRs2 w) (fieldImmSB w)
  | .bne => .bne (fieldRs1 w) (fieldRs2 w) (fieldImmSB w)
  | .blt => .blt (fieldRs1 w) (fieldRs2 w) (fieldImmSB w)
  | .bge => .bge (fieldRs1 w) (fieldRs2 w) (fieldImmSB w)
  | .bltu => .bltu (fieldRs1 w) (fieldRs2 w) (fieldImmSB w)
  | .bgeu => .bgeu (fieldRs1 w) (fieldRs2 w) (fieldImmSB w)
  | .lb => .lb (fieldRd w) (fieldRs1 w) (fieldImmI w)
  | .lh => .lh (fieldRd w) (fieldRs1 w) (fieldImmI w)
  | .lw => .lw (fieldRd w) (fieldRs1 w) (fieldImmI w)
  | .lbu => .lbu (fieldRd w) (fieldRs1 w) (fieldImmI w)
  | .lhu => .lhu (fieldRd w) (fieldRs1 w) (fieldImmI w)
  | .sb => .sb (fieldRs1 w) (fieldRs2 w) (fieldImmSB w)
  | .sh => .sh (fieldRs1 w) (fieldRs2 w) (fieldImmSB w)
  | .sw => .sw (fieldRs1 w) (fieldRs2 w) (fieldImmSB w)
  | .ebreak => .ebreak
  | .mul => .mul (fieldRd w) (fieldRs1 w) (fieldRs2 w)
  | .mulh => .mulh (fieldRd w) (fieldRs1 w) (fieldRs2 w)
  | .mulhsu => .mulhsu (fieldRd w) (fieldRs1 w) (fieldRs2 w)
  | .mulhu => .mulhu (fieldRd w) (fieldRs1 w) (fieldRs2 w)
  | .div => .div (fieldRd w) (fieldRs1 w) (fieldRs2 w)
  | .divu => .divu (fieldRd w) (fieldRs1 w) (fieldRs2 w)
  | .rem => .rem (fieldRd w) (fieldRs1 w) (fieldRs2 w)
  | .remu => .remu (fieldRd w) (fieldRs1 w) (fieldRs2 w)

/-- Why bytes do not decode. -/
inductive DecodeError
  /-- No registry entry matches the word: the illegal encodings of 30_encoding.md R81. -/
  | invalidInstruction (w : Word)
  /-- Fewer than the 4 bytes of an instruction (R60). -/
  | truncated (n : Nat)
deriving DecidableEq, Repr

/-- Decoding a word: the instruction of the first entry it matches; no match is an illegal instruction (R96). -/
def decode (cfg : Config) (w : Word) : Except DecodeError Instr :=
  match resolve (registry cfg.extM) w with
  | some e => .ok (e.row.op.instr w)
  | none => .error (.invalidInstruction w)

/-- The word four bytes hold, the lowest address least significant (20_memory.md R45, R46). -/
def wordOfBytes (b0 b1 b2 b3 : Byte) : Word := b3 ++ (b2 ++ (b1 ++ b0))

/-- Decoding bytes: one instruction of one length, 4 bytes little-endian (30_encoding.md R60), and the bytes after it. -/
def decodeBytes (cfg : Config) : List Byte → Except DecodeError (Instr × List Byte)
  | b0 :: b1 :: b2 :: b3 :: rest =>
    match decode cfg (wordOfBytes b0 b1 b2 b3) with
    | .ok i => .ok (i, rest)
    | .error e => .error e
  | short => .error (.truncated short.length)

/-- The configuration with every row of spec/opcode_table.json in the registry. -/
def Config.full : Config := { Config.default with extM := true }

/-- The word of a table row given as `nbits` bits in the number `w`; the bits above are 0. -/
def tableWord (nbits w : Nat) : Word := BitVec.ofNat 32 (w % 2 ^ nbits)

/-- What the decoder reads from an instruction whose bits are `w`, laid out as 4 little-endian bytes. It decodes with
the whole opcode table (`EXT_M` true, log entry 5). -/
def decodeTableWord (nbits w : Nat) : Option Instr :=
  let v := tableWord nbits w
  match decodeBytes Config.full
      [v.extractLsb' 0 8, v.extractLsb' 8 8, v.extractLsb' 16 8, v.extractLsb' 24 8] with
  | .ok (i, _) => some i
  | .error _ => none

/-- The configuration whose registry has the row of the word `w`, if the opcode table has one: `EXT_M` is set for a
word of an `M_EXT` row, and nothing else changes (log entry 5). -/
def Config.admitting (cfg : Config) (w : Word) : Config :=
  if (resolve mExtRows w).isSome then { cfg with extM := true } else cfg

/-! ### Encoder -/

/-- A field placed with its least significant bit at bit `lo` of the word. -/
def place {n : Nat} (v : BitVec n) (lo : Nat) : Word := v.setWidth 32 <<< lo

/-- Format R (30_encoding.md R62). -/
def encodeR (funct7 : BitVec 7) (rs2 rs1 : Reg) (funct3 : BitVec 3) (rd : Reg) (opcode : BitVec 7) : Word :=
  place funct7 25 ||| place rs2 20 ||| place rs1 15 ||| place funct3 12 ||| place rd 7 ||| place opcode 0

/-- Format I (R62): imm[11:0] in w[31:20]. -/
def encodeI (imm : BitVec 12) (rs1 : Reg) (funct3 : BitVec 3) (rd : Reg) (opcode : BitVec 7) : Word :=
  place imm 20 ||| place rs1 15 ||| place funct3 12 ||| place rd 7 ||| place opcode 0

/-- Formats S and B (R62): the raw immediate is split over w[31:25] and w[11:7]. -/
def encodeSB (imm : BitVec 12) (rs2 rs1 : Reg) (funct3 : BitVec 3) (opcode : BitVec 7) : Word :=
  place (imm.extractLsb' 5 7) 25 ||| place rs2 20 ||| place rs1 15 ||| place funct3 12
    ||| place (imm.extractLsb' 0 5) 7 ||| place opcode 0

/-- Formats U and J (R62): the raw immediate is w[31:12]. -/
def encodeUJ (imm : BitVec 20) (rd : Reg) (opcode : BitVec 7) : Word :=
  place imm 12 ||| place rd 7 ||| place opcode 0

/-- The major opcode of a row (R80). -/
def Op.opcode : Op → BitVec 7
  | .auipc => 0b0010111#7
  | .lui => 0b0110111#7
  | .addi | .slti | .sltiu | .xori | .ori | .andi | .slli | .srli | .srai => 0b0010011#7
  | .add | .sub | .sll | .slt | .sltu | .xor | .srl | .sra | .or | .and => 0b0110011#7
  | .jal => 0b1101111#7
  | .jalr => 0b1100111#7
  | .beq | .bne | .blt | .bge | .bltu | .bgeu => 0b1100011#7
  | .lb | .lh | .lw | .lbu | .lhu => 0b0000011#7
  | .sb | .sh | .sw => 0b0100011#7
  | .ebreak => 0b1110011#7
  | .mul | .mulh | .mulhsu | .mulhu | .div | .divu | .rem | .remu => 0b0110011#7

/-- funct3 of a row, as the rule of each instruction gives it (41 to 45); 0 in the formats without the field. -/
def Op.funct3 : Op → BitVec 3
  | .auipc | .lui | .jal | .ebreak => 0b000#3
  | .addi | .add | .sub | .jalr | .beq | .lb | .sb | .mul => 0b000#3
  | .slli | .sll | .bne | .lh | .sh | .mulh => 0b001#3
  | .slti | .slt | .lw | .sw | .mulhsu => 0b010#3
  | .sltiu | .sltu | .mulhu => 0b011#3
  | .xori | .xor | .blt | .lbu | .div => 0b100#3
  | .srli | .srai | .srl | .sra | .bge | .lhu | .divu => 0b101#3
  | .ori | .or | .bltu | .rem => 0b110#3
  | .andi | .and | .bgeu | .remu => 0b111#3

/-- funct7 of a row of format R, and w[31:25] of the immediate shifts (41, 45); 0 in the formats without the field. -/
def Op.funct7 : Op → BitVec 7
  | .auipc | .lui | .addi | .slti | .sltiu | .xori | .ori | .andi | .slli | .srli => 0b0000000#7
  | .add | .sll | .slt | .sltu | .xor | .srl | .or | .and => 0b0000000#7
  | .srai | .sub | .sra => 0b0100000#7
  | .jal | .jalr | .beq | .bne | .blt | .bge | .bltu | .bgeu => 0b0000000#7
  | .lb | .lh | .lw | .lbu | .lhu | .sb | .sh | .sw | .ebreak => 0b0000000#7
  | .mul | .mulh | .mulhsu | .mulhu | .div | .divu | .rem | .remu => 0b0000001#7

/-- The word of an instruction (R62). The immediate shifts have w[31:25] fixed and shamt in w[24:20] (R78), the places of
funct7 and rs2. -/
def encode (i : Instr) : Word :=
  match i with
  | .auipc rd imm => encodeUJ imm rd (Op.opcode .auipc)
  | .lui rd imm => encodeUJ imm rd (Op.opcode .lui)
  | .addi rd rs1 imm => encodeI imm rs1 (Op.funct3 .addi) rd (Op.opcode .addi)
  | .slti rd rs1 imm => encodeI imm rs1 (Op.funct3 .slti) rd (Op.opcode .slti)
  | .sltiu rd rs1 imm => encodeI imm rs1 (Op.funct3 .sltiu) rd (Op.opcode .sltiu)
  | .xori rd rs1 imm => encodeI imm rs1 (Op.funct3 .xori) rd (Op.opcode .xori)
  | .ori rd rs1 imm => encodeI imm rs1 (Op.funct3 .ori) rd (Op.opcode .ori)
  | .andi rd rs1 imm => encodeI imm rs1 (Op.funct3 .andi) rd (Op.opcode .andi)
  | .slli rd rs1 shamt => encodeR (Op.funct7 .slli) shamt rs1 (Op.funct3 .slli) rd (Op.opcode .slli)
  | .srli rd rs1 shamt => encodeR (Op.funct7 .srli) shamt rs1 (Op.funct3 .srli) rd (Op.opcode .srli)
  | .srai rd rs1 shamt => encodeR (Op.funct7 .srai) shamt rs1 (Op.funct3 .srai) rd (Op.opcode .srai)
  | .add rd rs1 rs2 => encodeR (Op.funct7 .add) rs2 rs1 (Op.funct3 .add) rd (Op.opcode .add)
  | .sub rd rs1 rs2 => encodeR (Op.funct7 .sub) rs2 rs1 (Op.funct3 .sub) rd (Op.opcode .sub)
  | .sll rd rs1 rs2 => encodeR (Op.funct7 .sll) rs2 rs1 (Op.funct3 .sll) rd (Op.opcode .sll)
  | .slt rd rs1 rs2 => encodeR (Op.funct7 .slt) rs2 rs1 (Op.funct3 .slt) rd (Op.opcode .slt)
  | .sltu rd rs1 rs2 => encodeR (Op.funct7 .sltu) rs2 rs1 (Op.funct3 .sltu) rd (Op.opcode .sltu)
  | .xor rd rs1 rs2 => encodeR (Op.funct7 .xor) rs2 rs1 (Op.funct3 .xor) rd (Op.opcode .xor)
  | .srl rd rs1 rs2 => encodeR (Op.funct7 .srl) rs2 rs1 (Op.funct3 .srl) rd (Op.opcode .srl)
  | .sra rd rs1 rs2 => encodeR (Op.funct7 .sra) rs2 rs1 (Op.funct3 .sra) rd (Op.opcode .sra)
  | .or rd rs1 rs2 => encodeR (Op.funct7 .or) rs2 rs1 (Op.funct3 .or) rd (Op.opcode .or)
  | .and rd rs1 rs2 => encodeR (Op.funct7 .and) rs2 rs1 (Op.funct3 .and) rd (Op.opcode .and)
  | .jal rd imm => encodeUJ imm rd (Op.opcode .jal)
  | .jalr rd rs1 imm => encodeI imm rs1 (Op.funct3 .jalr) rd (Op.opcode .jalr)
  | .beq rs1 rs2 imm => encodeSB imm rs2 rs1 (Op.funct3 .beq) (Op.opcode .beq)
  | .bne rs1 rs2 imm => encodeSB imm rs2 rs1 (Op.funct3 .bne) (Op.opcode .bne)
  | .blt rs1 rs2 imm => encodeSB imm rs2 rs1 (Op.funct3 .blt) (Op.opcode .blt)
  | .bge rs1 rs2 imm => encodeSB imm rs2 rs1 (Op.funct3 .bge) (Op.opcode .bge)
  | .bltu rs1 rs2 imm => encodeSB imm rs2 rs1 (Op.funct3 .bltu) (Op.opcode .bltu)
  | .bgeu rs1 rs2 imm => encodeSB imm rs2 rs1 (Op.funct3 .bgeu) (Op.opcode .bgeu)
  | .lb rd rs1 imm => encodeI imm rs1 (Op.funct3 .lb) rd (Op.opcode .lb)
  | .lh rd rs1 imm => encodeI imm rs1 (Op.funct3 .lh) rd (Op.opcode .lh)
  | .lw rd rs1 imm => encodeI imm rs1 (Op.funct3 .lw) rd (Op.opcode .lw)
  | .lbu rd rs1 imm => encodeI imm rs1 (Op.funct3 .lbu) rd (Op.opcode .lbu)
  | .lhu rd rs1 imm => encodeI imm rs1 (Op.funct3 .lhu) rd (Op.opcode .lhu)
  | .sb rs1 rs2 imm => encodeSB imm rs2 rs1 (Op.funct3 .sb) (Op.opcode .sb)
  | .sh rs1 rs2 imm => encodeSB imm rs2 rs1 (Op.funct3 .sh) (Op.opcode .sh)
  | .sw rs1 rs2 imm => encodeSB imm rs2 rs1 (Op.funct3 .sw) (Op.opcode .sw)
  | .ebreak => 0x00100073#32
  | .mul rd rs1 rs2 => encodeR (Op.funct7 .mul) rs2 rs1 (Op.funct3 .mul) rd (Op.opcode .mul)
  | .mulh rd rs1 rs2 => encodeR (Op.funct7 .mulh) rs2 rs1 (Op.funct3 .mulh) rd (Op.opcode .mulh)
  | .mulhsu rd rs1 rs2 => encodeR (Op.funct7 .mulhsu) rs2 rs1 (Op.funct3 .mulhsu) rd (Op.opcode .mulhsu)
  | .mulhu rd rs1 rs2 => encodeR (Op.funct7 .mulhu) rs2 rs1 (Op.funct3 .mulhu) rd (Op.opcode .mulhu)
  | .div rd rs1 rs2 => encodeR (Op.funct7 .div) rs2 rs1 (Op.funct3 .div) rd (Op.opcode .div)
  | .divu rd rs1 rs2 => encodeR (Op.funct7 .divu) rs2 rs1 (Op.funct3 .divu) rd (Op.opcode .divu)
  | .rem rd rs1 rs2 => encodeR (Op.funct7 .rem) rs2 rs1 (Op.funct3 .rem) rd (Op.opcode .rem)
  | .remu rd rs1 rs2 => encodeR (Op.funct7 .remu) rs2 rs1 (Op.funct3 .remu) rd (Op.opcode .remu)

end Sys2Proof
end

