-- ==== Sys2Proof/Machine/Ops.lean ====
section
/-! DEFINITION. The named operations over registers and memory, what an effect may do, taking a fault, and commit
(20_memory.md R40 to R49; 35_decode_dispatch.md R99 to R107, R114, R115, R117). -/

namespace Sys2Proof.Machine

/-! ### Registers -/

/-- `x[i]` (00_scope.md R9): index 0 always reads 0 (10_state.md R21). -/
def State.readReg (s : State) (r : Reg) : Word :=
  if r = 0#5 then 0#32 else s.regs[r.toNat]'r.isLt

/-- `x[i] <- v` into the slot itself, slot 0 included; the step restores slot 0 (`State.restoreZero`). -/
def State.writeSlot (s : State) (r : Reg) (v : Word) : State :=
  { s with regs := s.regs.set r.toNat v r.isLt }

/-- Step 7 of the step: "Force register 0 back to zero unconditionally" (35_decode_dispatch.md R106). -/
def State.restoreZero (s : State) : State :=
  { s with regs := s.regs.set 0 0#32 }

/-! ### Memory -/

/-- The byte at an address; an unlisted address reads 0 (70_reset_and_hazards.md R250). -/
def Memory.read : Memory → Nat → Byte
  | [], _ => 0#8
  | (b, v) :: m, a => if a = b then v else Memory.read m a

/-- Take an address out of the list. -/
def Memory.erase : Memory → Nat → Memory
  | [], _ => []
  | (b, v) :: m, a => if a = b then Memory.erase m a else (b, v) :: Memory.erase m a

/-- Put an address that is not listed into its place. -/
def Memory.insert : Memory → Nat → Byte → Memory
  | [], a, v => [(a, v)]
  | (b, x) :: m, a, v => if a < b then (a, v) :: (b, x) :: m else (b, x) :: Memory.insert m a v

/-- Write one byte, keeping the canonical form: a byte of 0 is not listed. -/
def Memory.write (m : Memory) (a : Nat) (v : Byte) : Memory :=
  if v = 0#8 then Memory.erase m a else Memory.insert (Memory.erase m a) a v

/-- The canonical form, for addresses from `lo` on: strictly rising, no byte 0. -/
def Memory.wfFrom : Nat → Memory → Bool
  | _, [] => true
  | lo, (a, v) :: m => decide (lo ≤ a) && (v != 0#8) && Memory.wfFrom (a + 1) m

/-- The canonical form of the memory list. -/
def Memory.wf (m : Memory) : Bool := Memory.wfFrom 0 m

/-- Every listed address lies in the window of the configuration (20_memory.md R40: there are no other bytes). -/
def Memory.inBank (cfg : Config) (m : Memory) : Bool :=
  m.all (fun c => decide (pmemBase ≤ c.1) && decide (c.1 < pmemBase + cfg.pmemSize))

/-- The byte of the memory bank at a guest address. -/
def State.byteAt (s : State) (a : Nat) : Byte := Memory.read s.mem a

/-- The access widths (20_memory.md R48). -/
inductive Width
  | byte | half | word
deriving DecidableEq, Repr

/-- The bytes an access moves (R48). -/
def Width.bytes : Width → Nat
  | .byte => 1
  | .half => 2
  | .word => 4

/-- `InWindow(addr, n)` (R42), on unbounded integers. -/
def inWindow (cfg : Config) (addr : Word) (n : Nat) : Bool :=
  decide (pmemBase ≤ addr.toNat) && decide (addr.toNat + n ≤ pmemBase + cfg.pmemSize)

/-- The bytes from address `a` up, the lowest least significant, zero-extended (R43). -/
def Memory.readLE (m : Memory) (a : Nat) : Width → Word
  | .byte => (Memory.read m a).setWidth 32
  | .half => (Memory.read m (a + 1) ++ Memory.read m a).setWidth 32
  | .word => Memory.read m (a + 3) ++ (Memory.read m (a + 2) ++ (Memory.read m (a + 1) ++ Memory.read m a))

/-- Byte `k` of a word, v[8k+7 : 8k] (R44). -/
def byteOf (v : Word) (k : Nat) : Byte := v.extractLsb' (8 * k) 8

/-- Store the low bytes of `v` from address `a` up, the least significant lowest (R44). -/
def Memory.writeLE (m : Memory) (a : Nat) (v : Word) : Width → Memory
  | .byte => Memory.write m a (byteOf v 0)
  | .half => Memory.write (Memory.write m a (byteOf v 0)) (a + 1) (byteOf v 1)
  | .word =>
    Memory.write (Memory.write (Memory.write (Memory.write m a (byteOf v 0)) (a + 1) (byteOf v 1))
      (a + 2) (byteOf v 2)) (a + 3) (byteOf v 3)

/-- `MemRead(addr, n)` (R43), at any alignment (R47). -/
def State.memRead (s : State) (addr : Word) (w : Width) : Except Fault Word :=
  if inWindow s.cfg addr w.bytes then .ok (Memory.readLE s.mem addr.toNat w)
  else .error (.outOfBoundAccess addr)

/-- `MemWrite(addr, n, v)` (R44), at any alignment (R47): nothing is written unless every byte is in the window. -/
def State.memWrite (s : State) (addr : Word) (w : Width) (v : Word) : Except Fault State :=
  if inWindow s.cfg addr w.bytes then .ok { s with mem := Memory.writeLE s.mem addr.toNat v w }
  else .error (.outOfBoundAccess addr)

/-- Fetch of the InstructionWord at pc, "little-endian 32-bit load" (R45). -/
def State.fetch (s : State) : Except Fault Word := s.memRead s.pc .word

/-- `snpc` after the fetch: pc + 4 modulo 2^32 (10_state.md R24). -/
def State.snpc (s : State) : Word := s.pc + 4#32

/-! ### The retired counter -/

/-- One more step has retired (35_decode_dispatch.md R117). At 2^64 - 1 the sum is a free value (log entry 2). -/
def State.retire (s : State) : State :=
  if s.retired = BitVec.allOnes 64 then
    { s with retired := Config.retiredAfterMax s.draws, draws := s.draws + 1 }
  else { s with retired := s.retired + 1#64 }

/-! ### Effects and commit -/

/-- What an effect works on (R102, R103): the copy S' of the state, the candidate next pc `dnpc`, and the code of the
halt effect if it was used. -/
structure Effect where
  st : State
  dnpc : Word
  halt : Option Word
deriving DecidableEq, Repr

/-- Before the effect: S' is S, dnpc is snpc, no halt (R102 steps 1 to 3). -/
def Effect.start (s : State) : Effect := { st := s, dnpc := s.snpc, halt := none }

/-- `x[i] <- v`. -/
def Effect.writeReg (e : Effect) (r : Reg) (v : Word) : Effect := { e with st := e.st.writeSlot r v }

/-- `dnpc <- t`, the "set next pc" effect; the last setting wins (10_state.md R25). -/
def Effect.setNextPc (e : Effect) (t : Word) : Effect := { e with dnpc := t }

/-- `halt(code)` (44_system_halt.md R190). -/
def Effect.haltWith (e : Effect) (code : Word) : Effect := { e with halt := some code }

/-- `MemRead` inside an effect: it sees the effect's own writes (R103). -/
def Effect.load (e : Effect) (addr : Word) (w : Width) : Except Fault Word := e.st.memRead addr w

/-- `MemWrite` inside an effect. -/
def Effect.store (e : Effect) (addr : Word) (w : Width) (v : Word) : Except Fault Effect :=
  match e.st.memWrite addr w v with
  | .ok s => .ok { e with st := s }
  | .error f => .error f

/-- Steps 7 and 8, and what the run loop records (R106, R107, R113, R117): x[0] restored, pc := dnpc, one more step
retired, and after a halt the session is End with the pc of the halt instruction and its code (R115). -/
def Effect.commit (e : Effect) : State :=
  let done := ({ e.st.restoreZero with pc := e.dnpc }).retire
  match e.halt with
  | none => done
  | some code => { done with session := .ended e.st.pc code }

/-! ### Taking a fault -/

/-- A step fails: nothing of the step is kept, and the session goes to Abort with halt_pc = the pc of the failing
instruction, halt_ret = `HALT_RET_MAX` and the fault as reason (R104, R105, R114; 60_exceptions.md R223). There is no
return from it: Abort is terminal (60_exceptions.md R227). -/
def State.takeFault (s : State) (f : Fault) : State :=
  { s with session := .abort s.pc haltRetMax f }

/-- The answer of a step whose effect ran to its end, or raised a fault. -/
def finish (s : State) (r : Except Fault Effect) : Host.Outcome State Fault Refusal :=
  match r with
  | .ok e => .next e.commit
  | .error f => .next (s.takeFault f)

end Sys2Proof.Machine
end

