-- ==== Sys2Proof/Machine/Operands.lean ====
section
/-! DEFINITION. Sign extension (00_scope.md R8) and the operand decoders, one per format (30_encoding.md R68 to R76). -/

namespace Sys2Proof.Machine

/-! ### Sign extension -/

/-- The low-`len`-bit mask of R8's contract. -/
def lowMask (len : Nat) : Word := if len = 32 then 0xFFFFFFFF#32 else (1#32 <<< len) - 1#32

/-- `signext(x, len)` by R8's contract, refused (none) for a `len` of 0 or above 32 (92_eei_decisions.md D29). -/
def signext (x : Word) (len : Nat) : Option Word :=
  if 1 ≤ len ∧ len ≤ 32 then
    let v := x &&& lowMask len
    some (if v.getLsbD (len - 1) then v ||| ~~~ lowMask len else v)
  else none

/-- `sext_N(v)` of an N-bit field, R8's extension where the field has its own width. -/
def sext {n : Nat} (v : BitVec n) : Word := v.signExtend 32

/-- `sext_N(v)` of the low N bits of a Word (R8). -/
def sextLow (n : Nat) (v : Word) : Word := sext (v.setWidth n)

/-- `zext_N(v)`: v masked to its low N bits (R8). -/
def zextLow (n : Nat) (v : Word) : Word := (v.setWidth n).setWidth 32

/-! ### Operand decoders -/

/-- DecodedOperands (R68): `rd` an index, `src1` and `src2` register values, `imm` a Word. A field the format does not
define is 0 (92_eei_decisions.md D16). -/
structure DecodedOperands where
  rd : Reg
  src1 : Word
  src2 : Word
  imm : Word
deriving DecidableEq, Repr

/-- Format I (R69): imm = signext(w[31:20], 12). -/
def operandsI (rd rs1 : Reg) (imm : BitVec 12) (s : State) : DecodedOperands :=
  { rd := rd, src1 := s.readReg rs1, src2 := 0#32, imm := sext imm }

/-- The S immediate (R70): signext(w[31:25], 7) << 5 | w[11:7]. -/
def immS (imm : BitVec 12) : Word :=
  (sext (imm.extractLsb' 5 7) <<< 5) ||| (imm.extractLsb' 0 5).setWidth 32

/-- Format S (R70); its rd is w[11:7], which no effect of the format uses. -/
def operandsS (rs1 rs2 : Reg) (imm : BitVec 12) (s : State) : DecodedOperands :=
  { rd := imm.extractLsb' 0 5, src1 := s.readReg rs1, src2 := s.readReg rs2, imm := immS imm }

/-- The J immediate (R74) from w[31:12]: bit[31] << 20, bits[30:21] << 1, bit[20] << 11, bits[19:12] << 12, then
sign-extended as a 21-bit field. -/
def immJ (imm : BitVec 20) : Word :=
  let v : BitVec 21 :=
    ((imm.extractLsb' 19 1).setWidth 21 <<< 20) ||| ((imm.extractLsb' 9 10).setWidth 21 <<< 1)
      ||| ((imm.extractLsb' 8 1).setWidth 21 <<< 11) ||| ((imm.extractLsb' 0 8).setWidth 21 <<< 12)
  sext v

/-- The B immediate, layout `rv32` (R71): signext(w[31] ++ w[7] ++ w[30:25] ++ w[11:8] ++ 0b0, 13). -/
def immBRv32 (imm : BitVec 12) : Word :=
  sext (imm.extractLsb' 11 1 ++ (imm.extractLsb' 0 1 ++ (imm.extractLsb' 5 6 ++ (imm.extractLsb' 1 4 ++ 0#1))))

/-- The B immediate under a layout. Under `doc_literal` (R72) it is the J immediate of the word's bits 31 to 12, which
hold w[31:25], rs2, rs1 and funct3. -/
def immB (layout : BImmLayout) (funct3 : BitVec 3) (rs1 rs2 : Reg) (imm : BitVec 12) : Word :=
  match layout with
  | .rv32 => immBRv32 imm
  | .docLiteral => immJ (imm.extractLsb' 5 7 ++ (rs2 ++ (rs1 ++ funct3)))

/-- Format B (R71, R72); its rd is w[11:7], which no effect of the format uses. -/
def operandsB (funct3 : BitVec 3) (rs1 rs2 : Reg) (imm : BitVec 12) (s : State) : DecodedOperands :=
  { rd := imm.extractLsb' 0 5, src1 := s.readReg rs1, src2 := s.readReg rs2
    imm := immB s.cfg.bImmLayout funct3 rs1 rs2 imm }

/-- Format U (R73): imm = signext(w[31:12], 20) << 12; no register reads. -/
def operandsU (rd : Reg) (imm : BitVec 20) : DecodedOperands :=
  { rd := rd, src1 := 0#32, src2 := 0#32, imm := sext imm <<< 12 }

/-- Format J (R74); no register reads. -/
def operandsJ (rd : Reg) (imm : BitVec 20) : DecodedOperands :=
  { rd := rd, src1 := 0#32, src2 := 0#32, imm := immJ imm }

/-- Format R (R75): registers only, no immediate. -/
def operandsR (rd rs1 rs2 : Reg) (s : State) : DecodedOperands :=
  { rd := rd, src1 := s.readReg rs1, src2 := s.readReg rs2, imm := 0#32 }

/-- Format N (R76): all fields zero. -/
def operandsN : DecodedOperands := { rd := 0#5, src1 := 0#32, src2 := 0#32, imm := 0#32 }

/-- `decode[format](word, x)` (R68): the operand decoder of a format on a word, by the fields of R61. -/
def decodeOperands (f : Format) (w : Word) (s : State) : DecodedOperands :=
  match f with
  | .R => operandsR (fieldRd w) (fieldRs1 w) (fieldRs2 w) s
  | .I => operandsI (fieldRd w) (fieldRs1 w) (fieldImmI w) s
  | .S => operandsS (fieldRs1 w) (fieldRs2 w) (fieldImmSB w) s
  | .B => operandsB (fieldFunct3 w) (fieldRs1 w) (fieldRs2 w) (fieldImmSB w) s
  | .U => operandsU (fieldRd w) (fieldImmUJ w)
  | .J => operandsJ (fieldRd w) (fieldImmUJ w)
  | .N => operandsN

/-- The shift amount of the immediate shifts, imm[4:0] (R78). -/
def DecodedOperands.immShamt (o : DecodedOperands) : Nat := (o.imm.extractLsb' 0 5).toNat

/-- The shift amount of the register shifts, src2[4:0] (R78). -/
def DecodedOperands.regShamt (o : DecodedOperands) : Nat := (o.src2.extractLsb' 0 5).toNat

/-! ### The shapes of effects -/

/-- The effect `x[rd] <- v` and no other. -/
def writeResult (o : DecodedOperands) (v : Word) (s : State) : Host.Outcome State Fault Refusal :=
  finish s (.ok ((Effect.start s).writeReg o.rd v))

/-- The effect of JAL and JALR: `dnpc <- t`, then `x[rd] <- snpc` (42_control_transfer.md R150). -/
def jumpAndLink (o : DecodedOperands) (t : Word) (s : State) : Host.Outcome State Fault Refusal :=
  finish s (.ok (((Effect.start s).setNextPc t).writeReg o.rd s.snpc))

/-- The effect of a branch: `dnpc <- pc + imm` when the condition holds, else nothing (R150). -/
def branchIf (c : Bool) (o : DecodedOperands) (s : State) : Host.Outcome State Fault Refusal :=
  finish s (.ok (if c then (Effect.start s).setNextPc (s.pc + o.imm) else Effect.start s))

/-- EA = src1 + imm modulo 2^32, the one addressing mode (43_load_store.md R170). -/
def DecodedOperands.address (o : DecodedOperands) : Word := o.src1 + o.imm

/-- The effect of a load: `x[rd] <- ext(MemRead(EA, n))`, or the fault of the access (R170). -/
def loadResult (o : DecodedOperands) (w : Width) (ext : Word → Word) (s : State) :
    Host.Outcome State Fault Refusal :=
  finish s (match (Effect.start s).load o.address w with
    | .ok v => .ok ((Effect.start s).writeReg o.rd (ext v))
    | .error f => .error f)

/-- The effect of a store: `MemWrite(EA, n, src2)`, or the fault of the access (R170). -/
def storeOperand (o : DecodedOperands) (w : Width) (s : State) : Host.Outcome State Fault Refusal :=
  finish s ((Effect.start s).store o.address w o.src2)

end Sys2Proof.Machine
end

