-- ==== Sys2Proof/Machine/Control.lean ====
section
/-! DEFINITION. Control-transfer instructions (42_control_transfer.md R150 to R158). -/

namespace Sys2Proof.Machine

/-- JAL (R151): dnpc <- pc + imm; x[rd] <- snpc. -/
def execJal (rd : Reg) (imm : BitVec 20) (s : State) : Host.Outcome State Fault Refusal :=
  let o := operandsJ rd imm
  jumpAndLink o (s.pc + o.imm) s

/-- JALR (R152): dnpc <- (src1 + imm) with bit 0 cleared; x[rd] <- snpc. -/
def execJalr (rd rs1 : Reg) (imm : BitVec 12) (s : State) : Host.Outcome State Fault Refusal :=
  let o := operandsI rd rs1 imm s
  jumpAndLink o ((o.src1 + o.imm) &&& 0xFFFFFFFE#32) s

/-- BEQ (R153): branch if src1 = src2. -/
def execBeq (rs1 rs2 : Reg) (imm : BitVec 12) (s : State) : Host.Outcome State Fault Refusal :=
  let o := operandsB 0b000#3 rs1 rs2 imm s
  branchIf (decide (o.src1 = o.src2)) o s

/-- BNE (R154): branch if src1 != src2. -/
def execBne (rs1 rs2 : Reg) (imm : BitVec 12) (s : State) : Host.Outcome State Fault Refusal :=
  let o := operandsB 0b001#3 rs1 rs2 imm s
  branchIf (decide (o.src1 ≠ o.src2)) o s

/-- BLT (R155): branch if s(src1) < s(src2). -/
def execBlt (rs1 rs2 : Reg) (imm : BitVec 12) (s : State) : Host.Outcome State Fault Refusal :=
  let o := operandsB 0b100#3 rs1 rs2 imm s
  branchIf (lessSigned o.src1 o.src2) o s

/-- BGE (R156): branch if s(src1) >= s(src2). -/
def execBge (rs1 rs2 : Reg) (imm : BitVec 12) (s : State) : Host.Outcome State Fault Refusal :=
  let o := operandsB 0b101#3 rs1 rs2 imm s
  branchIf (!lessSigned o.src1 o.src2) o s

/-- BLTU (R157): branch if u(src1) < u(src2). -/
def execBltu (rs1 rs2 : Reg) (imm : BitVec 12) (s : State) : Host.Outcome State Fault Refusal :=
  let o := operandsB 0b110#3 rs1 rs2 imm s
  branchIf (lessUnsigned o.src1 o.src2) o s

/-- BGEU (R158): branch if u(src1) >= u(src2). -/
def execBgeu (rs1 rs2 : Reg) (imm : BitVec 12) (s : State) : Host.Outcome State Fault Refusal :=
  let o := operandsB 0b111#3 rs1 rs2 imm s
  branchIf (!lessUnsigned o.src1 o.src2) o s

end Sys2Proof.Machine
end

