-- ==== Sys2Proof/Machine/Halt.lean ====
section
/-! DEFINITION. The halt instruction (44_system_halt.md R190). -/

namespace Sys2Proof.Machine

/-- EBREAK (R190): halt(x[HALT_RET_REG]). It writes no register and no memory and does not set dnpc; the commit makes the
session End with halt_pc = pc and halt_ret = the code (35_decode_dispatch.md R115). -/
def execEbreak (s : State) : Host.Outcome State Fault Refusal :=
  let e := Effect.start s
  finish s (.ok (e.haltWith (e.st.readReg haltRetReg)))

end Sys2Proof.Machine
end

