-- ==== Sys2Proof/Machine/Integer.lean ====
section
/-! DEFINITION. Integer computational instructions (41_integer_computational.md R120 to R141). -/

namespace Sys2Proof.Machine

/-- AUIPC (R121): x[rd] <- pc + imm. -/
def execAuipc (rd : Reg) (imm : BitVec 20) (s : State) : Host.Outcome State Fault Refusal :=
  let o := operandsU rd imm
  writeResult o (s.pc + o.imm) s

/-- LUI (R122): x[rd] <- imm. -/
def execLui (rd : Reg) (imm : BitVec 20) (s : State) : Host.Outcome State Fault Refusal :=
  let o := operandsU rd imm
  writeResult o o.imm s

/-- ADDI (R123): x[rd] <- src1 + imm, wrapping. -/
def execAddi (rd rs1 : Reg) (imm : BitVec 12) (s : State) : Host.Outcome State Fault Refusal :=
  let o := operandsI rd rs1 imm s
  writeResult o (o.src1 + o.imm) s

/-- SLTI (R124): x[rd] <- s(src1) < s(imm). -/
def execSlti (rd rs1 : Reg) (imm : BitVec 12) (s : State) : Host.Outcome State Fault Refusal :=
  let o := operandsI rd rs1 imm s
  writeResult o (boolWord (lessSigned o.src1 o.imm)) s

/-- SLTIU (R125): x[rd] <- u(src1) < u(imm), imm sign-extended first. -/
def execSltiu (rd rs1 : Reg) (imm : BitVec 12) (s : State) : Host.Outcome State Fault Refusal :=
  let o := operandsI rd rs1 imm s
  writeResult o (boolWord (lessUnsigned o.src1 o.imm)) s

/-- XORI (R126): x[rd] <- src1 ^ imm. -/
def execXori (rd rs1 : Reg) (imm : BitVec 12) (s : State) : Host.Outcome State Fault Refusal :=
  let o := operandsI rd rs1 imm s
  writeResult o (o.src1 ^^^ o.imm) s

/-- ORI (R127): x[rd] <- src1 | imm. -/
def execOri (rd rs1 : Reg) (imm : BitVec 12) (s : State) : Host.Outcome State Fault Refusal :=
  let o := operandsI rd rs1 imm s
  writeResult o (o.src1 ||| o.imm) s

/-- ANDI (R128): x[rd] <- src1 & imm. -/
def execAndi (rd rs1 : Reg) (imm : BitVec 12) (s : State) : Host.Outcome State Fault Refusal :=
  let o := operandsI rd rs1 imm s
  writeResult o (o.src1 &&& o.imm) s

/-- SLLI (R129): x[rd] <- src1 << imm[4:0]. -/
def execSlli (rd rs1 : Reg) (shamt : BitVec 5) (s : State) : Host.Outcome State Fault Refusal :=
  let o := operandsI rd rs1 (0b0000000#7 ++ shamt) s
  writeResult o (o.src1 <<< o.immShamt) s

/-- SRLI (R130): x[rd] <- src1 >>u imm[4:0]. -/
def execSrli (rd rs1 : Reg) (shamt : BitVec 5) (s : State) : Host.Outcome State Fault Refusal :=
  let o := operandsI rd rs1 (0b0000000#7 ++ shamt) s
  writeResult o (o.src1 >>> o.immShamt) s

/-- SRAI (R131): x[rd] <- src1 >>s imm[4:0]; the decoded imm is 0x400 + shamt. -/
def execSrai (rd rs1 : Reg) (shamt : BitVec 5) (s : State) : Host.Outcome State Fault Refusal :=
  let o := operandsI rd rs1 (0b0100000#7 ++ shamt) s
  writeResult o (o.src1.sshiftRight o.immShamt) s

/-- ADD (R132): x[rd] <- src1 + src2, wrapping. -/
def execAdd (rd rs1 rs2 : Reg) (s : State) : Host.Outcome State Fault Refusal :=
  let o := operandsR rd rs1 rs2 s
  writeResult o (o.src1 + o.src2) s

/-- SUB (R133): x[rd] <- src1 - src2, wrapping. -/
def execSub (rd rs1 rs2 : Reg) (s : State) : Host.Outcome State Fault Refusal :=
  let o := operandsR rd rs1 rs2 s
  writeResult o (o.src1 - o.src2) s

/-- SLL (R134): x[rd] <- src1 << src2[4:0]. -/
def execSll (rd rs1 rs2 : Reg) (s : State) : Host.Outcome State Fault Refusal :=
  let o := operandsR rd rs1 rs2 s
  writeResult o (o.src1 <<< o.regShamt) s

/-- SLT (R135): x[rd] <- s(src1) < s(src2). -/
def execSlt (rd rs1 rs2 : Reg) (s : State) : Host.Outcome State Fault Refusal :=
  let o := operandsR rd rs1 rs2 s
  writeResult o (boolWord (lessSigned o.src1 o.src2)) s

/-- SLTU (R136): x[rd] <- u(src1) < u(src2). -/
def execSltu (rd rs1 rs2 : Reg) (s : State) : Host.Outcome State Fault Refusal :=
  let o := operandsR rd rs1 rs2 s
  writeResult o (boolWord (lessUnsigned o.src1 o.src2)) s

/-- XOR (R137): x[rd] <- src1 ^ src2. -/
def execXor (rd rs1 rs2 : Reg) (s : State) : Host.Outcome State Fault Refusal :=
  let o := operandsR rd rs1 rs2 s
  writeResult o (o.src1 ^^^ o.src2) s

/-- SRL (R138): x[rd] <- src1 >>u src2[4:0]. -/
def execSrl (rd rs1 rs2 : Reg) (s : State) : Host.Outcome State Fault Refusal :=
  let o := operandsR rd rs1 rs2 s
  writeResult o (o.src1 >>> o.regShamt) s

/-- SRA (R139): x[rd] <- src1 >>s src2[4:0]. -/
def execSra (rd rs1 rs2 : Reg) (s : State) : Host.Outcome State Fault Refusal :=
  let o := operandsR rd rs1 rs2 s
  writeResult o (o.src1.sshiftRight o.regShamt) s

/-- OR (R140): x[rd] <- src1 | src2. -/
def execOr (rd rs1 rs2 : Reg) (s : State) : Host.Outcome State Fault Refusal :=
  let o := operandsR rd rs1 rs2 s
  writeResult o (o.src1 ||| o.src2) s

/-- AND (R141): x[rd] <- src1 & src2. -/
def execAnd (rd rs1 rs2 : Reg) (s : State) : Host.Outcome State Fault Refusal :=
  let o := operandsR rd rs1 rs2 s
  writeResult o (o.src1 &&& o.src2) s

end Sys2Proof.Machine
end

