-- ==== Sys2Proof/Machine/LoadStore.lean ====
section
/-! DEFINITION. Loads and stores (43_load_store.md R170 to R178). -/

namespace Sys2Proof.Machine

/-- LB (R171): x[rd] <- sext_8(MemRead(EA, 1)); with rd = x0 the read is still made. -/
def execLb (rd rs1 : Reg) (imm : BitVec 12) (s : State) : Host.Outcome State Fault Refusal :=
  loadResult (operandsI rd rs1 imm s) .byte (sextLow 8) s

/-- LH (R172): x[rd] <- sext_16(MemRead(EA, 2)). -/
def execLh (rd rs1 : Reg) (imm : BitVec 12) (s : State) : Host.Outcome State Fault Refusal :=
  loadResult (operandsI rd rs1 imm s) .half (sextLow 16) s

/-- LW (R173): x[rd] <- MemRead(EA, 4). -/
def execLw (rd rs1 : Reg) (imm : BitVec 12) (s : State) : Host.Outcome State Fault Refusal :=
  loadResult (operandsI rd rs1 imm s) .word id s

/-- LBU (R174): x[rd] <- zext_8(MemRead(EA, 1)). -/
def execLbu (rd rs1 : Reg) (imm : BitVec 12) (s : State) : Host.Outcome State Fault Refusal :=
  loadResult (operandsI rd rs1 imm s) .byte (zextLow 8) s

/-- LHU (R175): x[rd] <- zext_16(MemRead(EA, 2)). -/
def execLhu (rd rs1 : Reg) (imm : BitVec 12) (s : State) : Host.Outcome State Fault Refusal :=
  loadResult (operandsI rd rs1 imm s) .half (zextLow 16) s

/-- SB (R176): MemWrite(EA, 1, src2[7:0]). -/
def execSb (rs1 rs2 : Reg) (imm : BitVec 12) (s : State) : Host.Outcome State Fault Refusal :=
  storeOperand (operandsS rs1 rs2 imm s) .byte s

/-- SH (R177): MemWrite(EA, 2, src2[15:0]). -/
def execSh (rs1 rs2 : Reg) (imm : BitVec 12) (s : State) : Host.Outcome State Fault Refusal :=
  storeOperand (operandsS rs1 rs2 imm s) .half s

/-- SW (R178): MemWrite(EA, 4, src2). -/
def execSw (rs1 rs2 : Reg) (imm : BitVec 12) (s : State) : Host.Outcome State Fault Refusal :=
  storeOperand (operandsS rs1 rs2 imm s) .word s

end Sys2Proof.Machine
end

