-- ==== Sys2Proof/Machine/MulDiv.lean ====
section
/-! DEFINITION. Multiply and divide, RV32M (45_multiply_divide.md R200 to R208). -/

namespace Sys2Proof.Machine

/-- Bits 63..32 of the 64-bit two's-complement form of an exact product (R200). -/
def highWord (p : Int) : Word := (BitVec.ofInt 64 p).extractLsb' 32 32

/-- The signed overflow of a division: src1 = 0x8000_0000 and src2 = 0xFFFF_FFFF (R205, R207). -/
def divOverflows (a b : Word) : Bool := decide (a = 0x80000000#32 ∧ b = 0xFFFFFFFF#32)

/-- The quotient of DIV (R205), rounded toward zero. -/
def divSigned (a b : Word) : Word :=
  if b = 0#32 then 0xFFFFFFFF#32
  else if divOverflows a b then 0x80000000#32
  else BitVec.ofInt 32 (a.toInt.tdiv b.toInt)

/-- The quotient of DIVU (R206). -/
def divUnsigned (a b : Word) : Word :=
  if b = 0#32 then 0xFFFFFFFF#32 else BitVec.ofNat 32 (a.toNat / b.toNat)

/-- The remainder of REM (R207). -/
def remSigned (a b : Word) : Word :=
  if b = 0#32 then a
  else if divOverflows a b then 0#32
  else BitVec.ofInt 32 (a.toInt - b.toInt * a.toInt.tdiv b.toInt)

/-- The remainder of REMU (R208). -/
def remUnsigned (a b : Word) : Word :=
  if b = 0#32 then a else BitVec.ofNat 32 (a.toNat % b.toNat)

/-- MUL (R201): bits 31..0 of the product. -/
def execMul (rd rs1 rs2 : Reg) (s : State) : Host.Outcome State Fault Refusal :=
  let o := operandsR rd rs1 rs2 s
  writeResult o (BitVec.ofNat 32 (o.src1.toNat * o.src2.toNat)) s

/-- MULH (R202): bits 63..32, signed by signed. -/
def execMulh (rd rs1 rs2 : Reg) (s : State) : Host.Outcome State Fault Refusal :=
  let o := operandsR rd rs1 rs2 s
  writeResult o (highWord (o.src1.toInt * o.src2.toInt)) s

/-- MULHSU (R203): bits 63..32, signed src1 by unsigned src2. -/
def execMulhsu (rd rs1 rs2 : Reg) (s : State) : Host.Outcome State Fault Refusal :=
  let o := operandsR rd rs1 rs2 s
  writeResult o (highWord (o.src1.toInt * (o.src2.toNat : Int))) s

/-- MULHU (R204): bits 63..32, unsigned by unsigned. -/
def execMulhu (rd rs1 rs2 : Reg) (s : State) : Host.Outcome State Fault Refusal :=
  let o := operandsR rd rs1 rs2 s
  writeResult o (highWord ((o.src1.toNat : Int) * (o.src2.toNat : Int))) s

/-- DIV (R205): the signed quotient. -/
def execDiv (rd rs1 rs2 : Reg) (s : State) : Host.Outcome State Fault Refusal :=
  let o := operandsR rd rs1 rs2 s
  writeResult o (divSigned o.src1 o.src2) s

/-- DIVU (R206): the unsigned quotient. -/
def execDivu (rd rs1 rs2 : Reg) (s : State) : Host.Outcome State Fault Refusal :=
  let o := operandsR rd rs1 rs2 s
  writeResult o (divUnsigned o.src1 o.src2) s

/-- REM (R207): the signed remainder. -/
def execRem (rd rs1 rs2 : Reg) (s : State) : Host.Outcome State Fault Refusal :=
  let o := operandsR rd rs1 rs2 s
  writeResult o (remSigned o.src1 o.src2) s

/-- REMU (R208): the unsigned remainder. -/
def execRemu (rd rs1 rs2 : Reg) (s : State) : Host.Outcome State Fault Refusal :=
  let o := operandsR rd rs1 rs2 s
  writeResult o (remUnsigned o.src1 o.src2) s

end Sys2Proof.Machine
end

