-- ==== Sys2Proof/Machine/Session.lean ====
section
/-! DEFINITION. The executer step, the session run controller and the host interface (35_decode_dispatch.md R102, R111
to R119; 70_reset_and_hazards.md R250 to R258, R264). -/

namespace Sys2Proof.Machine

/-! ### One step of the run loop -/

/-- The terminal session states (10_state.md R30). -/
def Session.terminal : Session → Bool
  | .stop | .running => false
  | .abort _ _ _ | .ended _ _ | .quit => true

/-- One pass of the run loop (R113) on a session that is not terminal: the executer step of R102 and what the session
records of it. The checks come in the order of 60_exceptions.md R224: the fetch, then `resolve`, then the effect. -/
def State.execute (s : State) : Host.Outcome State Fault Refusal :=
  match s.fetch with
  | .error f => .next (s.takeFault f)
  | .ok w =>
    match decode s.cfg w with
    | .error _ => .next (s.takeFault (.invalidInstruction s.pc))
    | .ok i => exec i s

/-- The host's `run(1)`, the single step of 60_exceptions.md R234: nothing in a terminal state (R112), else one pass
(log entry 4). -/
def State.stepOnce (s : State) : Host.Outcome State Fault Refusal :=
  if s.session.terminal then .next s else s.execute

/-! ### `run(n)` -/

/-- The loop of R113: up to `n` passes, ended early by a terminal state. -/
def State.runLoop : Nat → State → Host.Outcome State Fault Refusal
  | 0, s => .next s
  | n + 1, s =>
    if s.session.terminal then .next s
    else
      match s.execute with
      | .next t => State.runLoop n t
      | .fault f => .fault f
      | .refused r => .refused r

/-- "n exhausted with neither signal ⇒ transition back to Stop" (R116). -/
def State.pause (s : State) : State :=
  if s.session = .running then { s with session := .stop } else s

/-- `run(n)` (R112, R113), n an unsigned 64-bit count (R118): nothing in a terminal state, else Running, the loop, and
Stop if neither a fault nor the halt ended it. -/
def State.run (n : BitVec 64) (s : State) : Host.Outcome State Fault Refusal :=
  if s.session.terminal then .next s
  else
    match State.runLoop n.toNat { s with session := .running } with
    | .next t => .next t.pause
    | .fault f => .fault f
    | .refused r => .refused r

/-- "Run unbounded" is `run(2^64 - 1)` (R118). -/
def State.runUnbounded (s : State) : Host.Outcome State Fault Refusal := s.run (BitVec.allOnes 64)

/-- The host's quit command (R119): from Stop, Abort or End to Quit. No call begins while the session is Running
(20_memory.md R56), so that state is left as it is (log entry 7). -/
def State.hostQuit (s : State) : State :=
  if s.session = .running then s else { s with session := .quit }

/-! ### Session creation -/

/-- An error a host call answers with; none of them changes any state. -/
inductive HostError
  /-- `init`: the image is longer than `PMEM_SIZE` (R250; 92_eei_decisions.md D21). -/
  | imageTooLarge (length : Nat)
  /-- `init`: the parameters break the constraint of 00_scope.md R6. -/
  | badParameters
  /-- `read_register`: the index is outside 0..31 (10_state.md R35). -/
  | badRegister (idx : Nat)
  /-- `read_memory`: OutOfBoundAccess(addr) (20_memory.md R55). -/
  | outOfBoundAccess (addr : Word)
deriving DecidableEq, Repr

/-- The canonical memory that holds the bytes from address `a` up and 0 elsewhere. -/
def Memory.ofBytes : Nat → List Byte → Memory
  | _, [] => []
  | a, b :: bs => if b = 0#8 then Memory.ofBytes (a + 1) bs else (a, b) :: Memory.ofBytes (a + 1) bs

/-- The 32 slots with the given values of x[1] to x[31] (`INIT_GPR`) and x[0] = 0 (R252). -/
def initRegs (gpr : Vector Word 32) : Vector Word 32 := gpr.set 0 0#32

/-- `init(image)` (R250 to R253) under the parameters `cfg` and `INIT_GPR` = `gpr`: the image "loaded verbatim at the
reset address", every other byte 0, pc at the reset vector, the session in Stop and nothing retired. Parameters that
break the constraint of 00_scope.md R6 are refused (log entry 9). -/
def State.init (cfg : Config) (gpr : Vector Word 32) (image : List Byte) : Except HostError State :=
  if cfg.ok then
    if image.length ≤ cfg.pmemSize then
      .ok { regs := initRegs gpr, pc := resetPc, mem := Memory.ofBytes pmemBase image, session := .stop
            retired := 0#64, cfg := cfg, draws := 0 }
    else .error (.imageTooLarge image.length)
  else .error .badParameters

/-! ### Introspection; no call here changes any state -/

/-- `read_register(idx)` (10_state.md R35). -/
def State.readRegister (s : State) (idx : Nat) : Except HostError Word :=
  if idx < 32 then .ok (s.readReg (BitVec.ofNat 5 idx)) else .error (.badRegister idx)

/-- `read_pc()` (10_state.md R35). -/
def State.readPc (s : State) : Word := s.pc

/-- The `n` bytes from address `a` up, in address order. -/
def State.bytesFrom (s : State) (a : Nat) : Nat → List Byte
  | 0 => []
  | n + 1 => s.byteAt a :: s.bytesFrom (a + 1) n

/-- `read_memory(addr, len)` (20_memory.md R55). A rejected call answers the error to its caller and gives no warning
report (DESIGN CHOICE, log entry 14). -/
def State.readMemory (s : State) (addr : Word) (len : Nat) : Except HostError (List Byte) :=
  if inWindow s.cfg addr len then .ok (s.bytesFrom addr.toNat len) else .error (.outOfBoundAccess addr)

/-! ### Placing an instruction -/

/-- The state with the word stored where the next step fetches, and all that this takes: a pc where 4 bytes fit, a
session that is not terminal, and a registry with the word's row (log entry 5). -/
def State.placeWord (s : State) (w : Word) : State :=
  let pc := if inWindow s.cfg s.pc 4 then s.pc else resetPc
  { s with
    pc := pc
    mem := Memory.writeLE s.mem pc.toNat w .word
    session := if s.session.terminal then .stop else s.session
    cfg := s.cfg.admitting w }

end Sys2Proof.Machine
end

