-- ==== Sys2Proof/Machine/Step.lean ====
section
/-! DEFINITION. One step of the machine, and how the host places an instruction for it. -/

namespace Sys2Proof.Machine

/-- One step: the host's `run(1)` (35_decode_dispatch.md R113; log entry 4). -/
def step (s : State) : Host.Outcome State Fault Refusal := s.stepOnce

/-- `s` with the instruction of a table row, `nbits` bits in `w`, stored where `step` fetches its next instruction. -/
def State.withFetchWord (s : State) (nbits w : Nat) : State := s.placeWord (tableWord nbits w)

end Sys2Proof.Machine
end

