-- ==== Sys2Proof/Machine/Reports.lean ====
section
/-! DEFINITION. What a `run` reports to the host (60_exceptions.md R236, R237; 35_decode_dispatch.md R112, R114, R115,
R117): the content of each report, not its text (log entry 8). No report changes any state. -/

namespace Sys2Proof.Machine

/-! ### The diagnostic of an invalid instruction -/

/-- "the two possible causes ('not implemented' vs 'implemented incorrectly')" (R236). -/
inductive Cause
  | notImplemented
  | implementedIncorrectly
deriving DecidableEq, Repr

/-- The content of the diagnostic (R236): the failing pc, the 8 raw bytes of the two words at and after it, the same as
two words, and the two possible causes. A byte outside the window is not shown (none, 92_eei_decisions.md D26), nor is
a word that has one (log entry 12). -/
structure Diagnostic where
  pc : Word
  bytes : List (Option Byte)
  words : List (Option Word)
  causes : List Cause
deriving DecidableEq, Repr

/-- The byte form: the `n` bytes from address `a` up. -/
def State.shownBytes (s : State) (a : Nat) : Nat → List (Option Byte)
  | 0 => []
  | n + 1 =>
    (if pmemBase ≤ a ∧ a < pmemBase + s.cfg.pmemSize then some (s.byteAt a) else none) :: s.shownBytes (a + 1) n

/-- The word form: the word at address `a`, little-endian as the fetch reads it (20_memory.md R46). -/
def State.shownWord (s : State) (a : Nat) : Option Word :=
  if pmemBase ≤ a ∧ a + 4 ≤ pmemBase + s.cfg.pmemSize then some (Memory.readLE s.mem a .word) else none

/-- The diagnostic about the instruction at `p` (R236). -/
def State.diagnosticAt (s : State) (p : Word) : Diagnostic :=
  { pc := p
    bytes := s.shownBytes p.toNat 8
    words := [s.shownWord p.toNat, s.shownWord (p.toNat + 4)]
    causes := [.notImplemented, .implementedIncorrectly] }

/-- The diagnostic of a session that aborted on an invalid instruction. -/
def State.diagnostic (s : State) : Option Diagnostic :=
  match s.session with
  | .abort p _ (.invalidInstruction _) => some (s.diagnosticAt p)
  | .abort _ _ (.outOfBoundAccess _) | .stop | .running | .ended _ _ | .quit => none

/-! ### The reports of a run -/

/-- What the block reports to the host about a `run`. -/
inductive Report
  /-- The advisory that a run in a terminal state executes nothing (35_decode_dispatch.md R112). -/
  | advisory
  /-- The diagnostic of InvalidInstruction (R236). -/
  | invalidInstruction (d : Diagnostic)
  /-- The logged warning of OutOfBoundAccess(addr) (R237; 60_exceptions.md R221) that aborted a
  run; a rejected `read_memory` gives none (DESIGN CHOICE, log entry 14). -/
  | outOfBoundAccess (addr : Word)
  /-- The halt report: halt_pc, halt_ret, and whether it is "good" (0) or "bad", which is flagged (R237;
  35_decode_dispatch.md R115). -/
  | halted (haltPc haltRet : Word) (good : Bool)
  /-- The run report's count of retired instructions (35_decode_dispatch.md R117). -/
  | retired (count : BitVec 64)
deriving DecidableEq, Repr

/-- The halt report of a session that ended (R237): halt_pc, halt_ret, and whether it is good. -/
def State.haltReport (s : State) : Option (Word × Word × Bool) :=
  match s.session with
  | .ended p c => some (p, c, decide (c = 0#32))
  | .abort _ _ _ | .stop | .running | .quit => none

/-- What is reported of the fault or the halt that ended a run. -/
def State.endReports (s : State) : List Report :=
  match s.session with
  | .abort p _ (.invalidInstruction _) => [.invalidInstruction (s.diagnosticAt p)]
  | .abort _ _ (.outOfBoundAccess a) => [.outOfBoundAccess a]
  | .ended p c => [.halted p c (decide (c = 0#32))]
  | .stop | .running | .quit => []

/-- What `run(n)` reports: in a terminal state the advisory alone, else how the run ended and the retired count. -/
def State.runReports (n : BitVec 64) (s : State) : List Report :=
  if s.session.terminal then [.advisory]
  else
    match s.run n with
    | .next t => t.endReports ++ [.retired t.retired]
    | .fault _ => []
    | .refused _ => []

end Sys2Proof.Machine
end

