-- ==== Sys2Proof/Safety.lean ====
section
/-! DEFINITION. What claims about runs are stated in: the end of a run (70_reset_and_hazards.md R265) and the
well-formed states. -/

namespace Sys2Proof.Machine

/-- The guest program has finished: the session is End (R265). -/
def State.finished (s : State) : Prop := ∃ p c, s.session = .ended p c

/-- It has finished successfully: End with halt_ret = 0 (R265). -/
def State.succeeded (s : State) : Prop := ∃ p, s.session = .ended p 0#32

/-- The run has been cut off by a fault (R221). -/
def State.faulted (s : State) : Prop := ∃ p c f, s.session = .abort p c f

/-- What the session records agrees with the rest of the state: an Abort's halt_pc is the pc and its halt_ret the
sentinel (R114, 60_exceptions.md R223), an InvalidInstruction carries that pc; an End has pc = halt_pc + 4 and
halt_ret = x[10] (44_system_halt.md R190). -/
def State.sessionAgrees (s : State) : Prop :=
  match s.session with
  | .abort p c (.invalidInstruction q) => p = s.pc ∧ c = haltRetMax ∧ q = p
  | .abort p c (.outOfBoundAccess _) => p = s.pc ∧ c = haltRetMax
  | .ended p c => s.pc = p + 4#32 ∧ c = s.readReg haltRetReg
  | .stop | .running | .quit => True

/-- The well-formed states. -/
structure State.Inv (s : State) : Prop where
  /-- The parameters meet the constraint of 00_scope.md R6. -/
  cfgOk : s.cfg.ok = true
  /-- The slot of x[0] holds 0 (10_state.md R21, 35_decode_dispatch.md R106). -/
  zeroSlot : s.regs[0] = 0#32
  /-- The memory list is canonical. -/
  memWf : Memory.wf s.mem = true
  /-- Every listed byte is a byte of the bank (20_memory.md R40). -/
  memInBank : Memory.inBank s.cfg s.mem = true
  /-- The session's record agrees with the state. -/
  agrees : s.sessionAgrees

end Sys2Proof.Machine
end

