-- ==== Sys2Proof/Certificates/Slice0/Obligations.lean ====
section
/-! DEFINITION. The statements for the provers, each with the rule of spec/ it formalises. -/

namespace Sys2Proof.Claim

open Sys2Proof.Machine

/-! ### The words the statements use -/

/-- Every register reads in `t` as in `s`. -/
def SameRegs (s t : State) : Prop := ∀ r, t.readReg r = s.readReg r

/-- Every byte of memory reads in `t` as in `s`. -/
def SameBytes (s t : State) : Prop := ∀ a, t.byteAt a = s.byteAt a

/-- `t` comes from `s` by a step that retired, with next pc `pc'`: the parameters are the same and the retired counter
is one more (where the spec states the sum; at 2^64 - 1 it is the free value of log entry 2). -/
structure Retired (s t : State) (pc' : Word) : Prop where
  pc : t.pc = pc'
  cfg : t.cfg = s.cfg
  count : s.retired ≠ BitVec.allOnes 64 → t.retired = s.retired + 1#64

/-- `exec i s` answers a next state in which x[rd] reads `v` (x0 still 0), every other register and every byte of
memory reads as before, the session is as before and the pc is `pc'`. -/
def Writes (i : Instr) (s : State) (rd : Reg) (v pc' : Word) : Prop :=
  ∃ t, exec i s = .next t ∧ Retired s t pc' ∧ t.session = s.session ∧ SameBytes s t ∧
    ∀ r, t.readReg r = if r = rd ∧ rd ≠ 0#5 then v else s.readReg r

/-- `exec i s` answers a next state that differs in the pc, which is `pc'`, and the retired counter only. -/
def MovesPc (i : Instr) (s : State) (pc' : Word) : Prop :=
  ∃ t, exec i s = .next t ∧ Retired s t pc' ∧ t.session = s.session ∧ SameBytes s t ∧ SameRegs s t

/-- `exec i s` answers a next state in which the `n` bytes from `ea` up are the low bytes of `v`, the least significant
lowest, and every other byte and every register reads as before. -/
def Stores (i : Instr) (s : State) (ea : Word) (n : Nat) (v : Word) : Prop :=
  ∃ t, exec i s = .next t ∧ Retired s t (s.pc + 4#32) ∧ t.session = s.session ∧ SameRegs s t ∧
    (∀ k, k < n → t.byteAt (ea.toNat + k) = v.extractLsb' (8 * k) 8) ∧
    ∀ a, ¬(ea.toNat ≤ a ∧ a < ea.toNat + n) → t.byteAt a = s.byteAt a

/-- The outcome is `s` in the session Abort(halt_pc = pc, halt_ret = 0xFFFF_FFFF, reason `f`), nothing else changed. -/
def Aborts (o : Host.Outcome State Fault Refusal) (s : State) (f : Fault) : Prop :=
  o = .next { s with session := .abort s.pc 0xFFFFFFFF#32 f }

/-- The I immediate of a word (30_encoding.md R69): signext(w[31:20], 12). -/
def immOfI (w : Word) : Word := (w.extractLsb' 20 12).signExtend 32

/-- The S immediate of a word as R70 derives it: sext_12(w[31:25] ++ w[11:7]). -/
def immOfS (w : Word) : Word := (w.extractLsb' 25 7 ++ w.extractLsb' 7 5).signExtend 32

/-- The U immediate of a word as R73 derives it: w[31:12] ++ 0x000. -/
def immOfU (w : Word) : Word := w.extractLsb' 12 20 ++ 0#12

/-- The J immediate of a word, R74's second form: signext(w[31] ++ w[19:12] ++ w[20] ++ w[30:21] ++ 0b0, 21). -/
def immOfJ (w : Word) : Word :=
  (w.extractLsb' 31 1 ++ (w.extractLsb' 12 8 ++ (w.extractLsb' 20 1 ++ (w.extractLsb' 21 10 ++ 0#1)))).signExtend 32

/-- The B immediate of a word: R71 under `rv32`, the J immediate under `doc_literal` (R72). -/
def immOfB (layout : BImmLayout) (w : Word) : Word :=
  match layout with
  | .rv32 =>
    (w.extractLsb' 31 1 ++ (w.extractLsb' 7 1 ++ (w.extractLsb' 25 6 ++ (w.extractLsb' 8 4 ++ 0#1)))).signExtend 32
  | .docLiteral => immOfJ w

/-- The word has the opcode, rd and the format of U or J (30_encoding.md R62). -/
def HasUJ (w : Word) (opcode : BitVec 7) (rd : Reg) : Prop :=
  fieldOpcode w = opcode ∧ fieldRd w = rd

/-- The word has the opcode, funct3, rd and rs1 of format I (R62). -/
def HasI (w : Word) (opcode : BitVec 7) (funct3 : BitVec 3) (rd rs1 : Reg) : Prop :=
  fieldOpcode w = opcode ∧ fieldFunct3 w = funct3 ∧ fieldRd w = rd ∧ fieldRs1 w = rs1

/-- The word has the opcode, funct3, funct7, rd, rs1 and rs2 of format R (R62). -/
def HasR (w : Word) (opcode : BitVec 7) (funct3 : BitVec 3) (funct7 : BitVec 7) (rd rs1 rs2 : Reg) : Prop :=
  fieldOpcode w = opcode ∧ fieldFunct3 w = funct3 ∧ fieldFunct7 w = funct7 ∧
    fieldRd w = rd ∧ fieldRs1 w = rs1 ∧ fieldRs2 w = rs2

/-- The word has the opcode, funct3, rs1 and rs2 of formats S and B (R62). -/
def HasSB (w : Word) (opcode : BitVec 7) (funct3 : BitVec 3) (rs1 rs2 : Reg) : Prop :=
  fieldOpcode w = opcode ∧ fieldFunct3 w = funct3 ∧ fieldRs1 w = rs1 ∧ fieldRs2 w = rs2

/-- A register-immediate instruction: its encoding (opcode OP-IMM, the given funct3), and its result, a function of
src1 and of the sign-extended immediate of its word. -/
def OpImm (mk : Reg → Reg → BitVec 12 → Instr) (funct3 : BitVec 3) (f : Word → Word → Word) : Prop :=
  ∀ (rd rs1 : Reg) (imm : BitVec 12) (s : State),
    HasI (encode (mk rd rs1 imm)) 0b0010011#7 funct3 rd rs1 ∧
    Writes (mk rd rs1 imm) s rd (f (s.readReg rs1) (immOfI (encode (mk rd rs1 imm)))) (s.pc + 4#32)

/-- An immediate shift: its encoding (opcode OP-IMM, funct3, w[31:25]), and its result, a function of src1 and the
shift amount w[24:20]. -/
def ShiftImm (mk : Reg → Reg → BitVec 5 → Instr) (funct3 : BitVec 3) (funct7 : BitVec 7)
    (f : Word → Nat → Word) : Prop :=
  ∀ (rd rs1 : Reg) (shamt : BitVec 5) (s : State),
    HasR (encode (mk rd rs1 shamt)) 0b0010011#7 funct3 funct7 rd rs1 shamt ∧
    Writes (mk rd rs1 shamt) s rd (f (s.readReg rs1) shamt.toNat) (s.pc + 4#32)

/-- A register-register instruction: its encoding (opcode OP, funct3, funct7), and its result, a function of src1 and
src2. -/
def OpReg (mk : Reg → Reg → Reg → Instr) (funct3 : BitVec 3) (funct7 : BitVec 7) (f : Word → Word → Word) : Prop :=
  ∀ (rd rs1 rs2 : Reg) (s : State),
    HasR (encode (mk rd rs1 rs2)) 0b0110011#7 funct3 funct7 rd rs1 rs2 ∧
    Writes (mk rd rs1 rs2) s rd (f (s.readReg rs1) (s.readReg rs2)) (s.pc + 4#32)

/-- A conditional branch: its encoding, and that it goes to pc + imm when the condition on src1 and src2 holds and to
pc + 4 when it does not, under both layouts of the immediate. -/
def Branch (mk : Reg → Reg → BitVec 12 → Instr) (funct3 : BitVec 3) (taken : Word → Word → Prop) : Prop :=
  ∀ (rs1 rs2 : Reg) (imm : BitVec 12) (s : State),
    HasSB (encode (mk rs1 rs2 imm)) 0b1100011#7 funct3 rs1 rs2 ∧
    (taken (s.readReg rs1) (s.readReg rs2) →
      MovesPc (mk rs1 rs2 imm) s (s.pc + immOfB s.cfg.bImmLayout (encode (mk rs1 rs2 imm)))) ∧
    (¬taken (s.readReg rs1) (s.readReg rs2) → MovesPc (mk rs1 rs2 imm) s (s.pc + 4#32))

/-- A load of `n` bytes: its encoding; inside the window its result, made from the bytes at EA up; outside it the
abort with EA. EA = src1 + imm modulo 2^32. -/
def Load (mk : Reg → Reg → BitVec 12 → Instr) (funct3 : BitVec 3) (n : Nat) (value : State → Nat → Word) : Prop :=
  ∀ (rd rs1 : Reg) (imm : BitVec 12) (s : State),
    let ea := s.readReg rs1 + immOfI (encode (mk rd rs1 imm))
    HasI (encode (mk rd rs1 imm)) 0b0000011#7 funct3 rd rs1 ∧
    (inWindow s.cfg ea n = true → Writes (mk rd rs1 imm) s rd (value s ea.toNat) (s.pc + 4#32)) ∧
    (inWindow s.cfg ea n = false → Aborts (exec (mk rd rs1 imm) s) s (.outOfBoundAccess ea))

/-- A store of `n` bytes: its encoding; inside the window the bytes stored at EA up; outside it the abort with EA and
no byte written. EA = src1 + imm modulo 2^32. -/
def Store (mk : Reg → Reg → BitVec 12 → Instr) (funct3 : BitVec 3) (n : Nat) : Prop :=
  ∀ (rs1 rs2 : Reg) (imm : BitVec 12) (s : State),
    let ea := s.readReg rs1 + immOfS (encode (mk rs1 rs2 imm))
    HasSB (encode (mk rs1 rs2 imm)) 0b0100011#7 funct3 rs1 rs2 ∧
    (inWindow s.cfg ea n = true → Stores (mk rs1 rs2 imm) s ea n (s.readReg rs2)) ∧
    (inWindow s.cfg ea n = false → Aborts (exec (mk rs1 rs2 imm) s) s (.outOfBoundAccess ea))

/-- The word is no instruction of the block, under these parameters: it does not decode, and a step that fetches it
aborts with InvalidInstruction. -/
def Illegal (cfg : Config) (w : Word) : Prop :=
  decode cfg w = .error (.invalidInstruction w) ∧
  ∀ s : State, s.cfg = cfg → s.session.terminal = false → s.fetch = .ok w →
    Aborts (step s) s (.invalidInstruction s.pc)

/-- `c ? 1 : 0`. -/
def bit (c : Prop) [Decidable c] : Word := if c then 1#32 else 0#32

/-- The loads and the stores. -/
def memoryOps : List Op := [.lb, .lh, .lw, .lbu, .lhu, .sb, .sh, .sw]

end Sys2Proof.Claim

open Sys2Proof Sys2Proof.Machine Sys2Proof.Claim

/-! ### Integer computational instructions -/

/-- R121, R122: AUIPC and LUI. -/
def Obligations.UpperImmediateResults : Prop :=
  ∀ (rd : Reg) (imm : BitVec 20) (s : State),
    (HasUJ (encode (.auipc rd imm)) 0b0010111#7 rd ∧
      Writes (.auipc rd imm) s rd (s.pc + immOfU (encode (.auipc rd imm))) (s.pc + 4#32)) ∧
    (HasUJ (encode (.lui rd imm)) 0b0110111#7 rd ∧
      Writes (.lui rd imm) s rd (immOfU (encode (.lui rd imm))) (s.pc + 4#32))

/-- R123, R126, R127, R128: ADDI, XORI, ORI, ANDI. -/
def Obligations.ImmediateArithmeticResults : Prop :=
  OpImm .addi 0b000#3 (fun a k => a + k) ∧
  OpImm .xori 0b100#3 (fun a k => a ^^^ k) ∧
  OpImm .ori 0b110#3 (fun a k => a ||| k) ∧
  OpImm .andi 0b111#3 (fun a k => a &&& k)

/-- R124, R125, R135, R136: SLTI, SLTIU, SLT, SLTU compare the signed or the unsigned readings and write 0 or 1. -/
def Obligations.ComparisonResults : Prop :=
  OpImm .slti 0b010#3 (fun a k => bit (a.toInt < k.toInt)) ∧
  OpImm .sltiu 0b011#3 (fun a k => bit (a.toNat < k.toNat)) ∧
  OpReg .slt 0b010#3 0b0000000#7 (fun a b => bit (a.toInt < b.toInt)) ∧
  OpReg .sltu 0b011#3 0b0000000#7 (fun a b => bit (a.toNat < b.toNat))

/-- R129, R130, R131: the immediate shifts as arithmetic: a left shift multiplies by 2^shamt modulo 2^32, a logical
right shift divides the unsigned reading by 2^shamt, an arithmetic one divides the signed reading, rounding down. The
words of the two functs with another w[31:25] are illegal. -/
def Obligations.ImmediateShiftResults : Prop :=
  ShiftImm .slli 0b001#3 0b0000000#7 (fun a n => BitVec.ofNat 32 (a.toNat * 2 ^ n)) ∧
  ShiftImm .srli 0b101#3 0b0000000#7 (fun a n => BitVec.ofNat 32 (a.toNat / 2 ^ n)) ∧
  ShiftImm .srai 0b101#3 0b0100000#7 (fun a n => BitVec.ofInt 32 (a.toInt / 2 ^ n)) ∧
  ∀ (cfg : Config) (w : Word), fieldOpcode w = 0b0010011#7 → fieldFunct7 w ≠ 0b0000000#7 →
    (fieldFunct3 w = 0b001#3 ∨ fieldFunct3 w = 0b101#3 ∧ fieldFunct7 w ≠ 0b0100000#7) → Illegal cfg w

/-- R134, R138, R139: the register shifts use only src2[4:0], so the amount is src2 modulo 32. -/
def Obligations.RegisterShiftResults : Prop :=
  OpReg .sll 0b001#3 0b0000000#7 (fun a b => BitVec.ofNat 32 (a.toNat * 2 ^ (b.toNat % 32))) ∧
  OpReg .srl 0b101#3 0b0000000#7 (fun a b => BitVec.ofNat 32 (a.toNat / 2 ^ (b.toNat % 32))) ∧
  OpReg .sra 0b101#3 0b0100000#7 (fun a b => BitVec.ofInt 32 (a.toInt / 2 ^ (b.toNat % 32)))

/-- R132, R133, R137, R140, R141: ADD, SUB, XOR, OR, AND. -/
def Obligations.RegisterArithmeticResults : Prop :=
  OpReg .add 0b000#3 0b0000000#7 (fun a b => a + b) ∧
  OpReg .sub 0b000#3 0b0100000#7 (fun a b => a - b) ∧
  OpReg .xor 0b100#3 0b0000000#7 (fun a b => a ^^^ b) ∧
  OpReg .or 0b110#3 0b0000000#7 (fun a b => a ||| b) ∧
  OpReg .and 0b111#3 0b0000000#7 (fun a b => a &&& b)

/-! ### Multiply and divide -/

/-- R201 to R204: MUL keeps bits 31..0 of the product, the others bits 63..32, that is the product divided by 2^32,
rounding down, modulo 2^32. -/
def Obligations.MultiplyResults : Prop :=
  OpReg .mul 0b000#3 0b0000001#7 (fun a b => a * b) ∧
  OpReg .mulh 0b001#3 0b0000001#7 (fun a b => BitVec.ofInt 32 (a.toInt * b.toInt / 2 ^ 32)) ∧
  OpReg .mulhsu 0b010#3 0b0000001#7 (fun a b => BitVec.ofInt 32 (a.toInt * (b.toNat : Int) / 2 ^ 32)) ∧
  OpReg .mulhu 0b011#3 0b0000001#7 (fun a b => BitVec.ofNat 32 (a.toNat * b.toNat / 2 ^ 32))

/-- R205 to R208: the quotients and remainders, division by zero and overflow included. -/
def Obligations.DivideResults : Prop :=
  OpReg .div 0b100#3 0b0000001#7 (fun a b =>
    if b = 0#32 then 0xFFFFFFFF#32
    else if a = 0x80000000#32 ∧ b = 0xFFFFFFFF#32 then 0x80000000#32
    else BitVec.ofInt 32 (a.toInt.tdiv b.toInt)) ∧
  OpReg .divu 0b101#3 0b0000001#7 (fun a b =>
    if b = 0#32 then 0xFFFFFFFF#32 else BitVec.ofNat 32 (a.toNat / b.toNat)) ∧
  OpReg .rem 0b110#3 0b0000001#7 (fun a b =>
    if b = 0#32 then a
    else if a = 0x80000000#32 ∧ b = 0xFFFFFFFF#32 then 0#32
    else BitVec.ofInt 32 (a.toInt - b.toInt * a.toInt.tdiv b.toInt)) ∧
  OpReg .remu 0b111#3 0b0000001#7 (fun a b =>
    if b = 0#32 then a else BitVec.ofNat 32 (a.toNat % b.toNat))

/-- R209: quotient and remainder rebuild the dividend, and MUL and MULHU are the two words of the unsigned product.
The results are read from the states the instructions answer, in destinations other than x0. -/
def Obligations.DivisionAndProductLaws : Prop :=
  ∀ (rd rs1 rs2 : Reg) (s : State), rd ≠ 0#5 →
    (s.readReg rs2 ≠ 0#32 → ¬(s.readReg rs1 = 0x80000000#32 ∧ s.readReg rs2 = 0xFFFFFFFF#32) →
      ∃ q r qu ru, exec (.div rd rs1 rs2) s = .next q ∧ exec (.rem rd rs1 rs2) s = .next r ∧
        exec (.divu rd rs1 rs2) s = .next qu ∧ exec (.remu rd rs1 rs2) s = .next ru ∧
        (s.readReg rs1).toInt = (s.readReg rs2).toInt * (q.readReg rd).toInt + (r.readReg rd).toInt ∧
        (s.readReg rs1).toNat = (s.readReg rs2).toNat * (qu.readReg rd).toNat + (ru.readReg rd).toNat) ∧
    ∃ lo hi, exec (.mul rd rs1 rs2) s = .next lo ∧ exec (.mulhu rd rs1 rs2) s = .next hi ∧
      (s.readReg rs1).toNat * (s.readReg rs2).toNat
        = (hi.readReg rd).toNat * 2 ^ 32 + (lo.readReg rd).toNat

/-! ### Control transfer -/

/-- R151, R152: JAL and JALR; a word of JALR's opcode with another funct3 is illegal. -/
def Obligations.JumpResults : Prop :=
  (∀ (rd : Reg) (imm : BitVec 20) (s : State), HasUJ (encode (.jal rd imm)) 0b1101111#7 rd ∧
    Writes (.jal rd imm) s rd (s.pc + 4#32) (s.pc + immOfJ (encode (.jal rd imm)))) ∧
  (∀ (rd rs1 : Reg) (imm : BitVec 12) (s : State), HasI (encode (.jalr rd rs1 imm)) 0b1100111#7 0b000#3 rd rs1 ∧
    Writes (.jalr rd rs1 imm) s rd (s.pc + 4#32)
      ((s.readReg rs1 + immOfI (encode (.jalr rd rs1 imm))) &&& 0xFFFFFFFE#32)) ∧
  ∀ (cfg : Config) (w : Word), fieldOpcode w = 0b1100111#7 → fieldFunct3 w ≠ 0b000#3 → Illegal cfg w

/-- R153 to R158: the conditional branches. -/
def Obligations.BranchResults : Prop :=
  Branch .beq 0b000#3 (fun a b => a = b) ∧
  Branch .bne 0b001#3 (fun a b => a ≠ b) ∧
  Branch .blt 0b100#3 (fun a b => a.toInt < b.toInt) ∧
  Branch .bge 0b101#3 (fun a b => a.toInt ≥ b.toInt) ∧
  Branch .bltu 0b110#3 (fun a b => a.toNat < b.toNat) ∧
  Branch .bgeu 0b111#3 (fun a b => a.toNat ≥ b.toNat)

/-! ### Loads and stores -/

/-- R171 to R175: the loads, with rd = x0 too (the access is made and can fault). -/
def Obligations.LoadResults : Prop :=
  Load .lb 0b000#3 1 (fun s a => (s.byteAt a).signExtend 32) ∧
  Load .lh 0b001#3 2 (fun s a => (s.byteAt (a + 1) ++ s.byteAt a).signExtend 32) ∧
  Load .lw 0b010#3 4 (fun s a => s.byteAt (a + 3) ++ (s.byteAt (a + 2) ++ (s.byteAt (a + 1) ++ s.byteAt a))) ∧
  Load .lbu 0b100#3 1 (fun s a => (s.byteAt a).setWidth 32) ∧
  Load .lhu 0b101#3 2 (fun s a => (s.byteAt (a + 1) ++ s.byteAt a).setWidth 32)

/-- R176, R177, R178: the stores. -/
def Obligations.StoreResults : Prop :=
  Store .sb 0b000#3 1 ∧ Store .sh 0b001#3 2 ∧ Store .sw 0b010#3 4

/-- R53: after a word store the bytes it stored are what a fetch at its address gives, with nothing in between. -/
def Obligations.StoreIsSeenByFetch : Prop :=
  ∀ (rs1 rs2 : Reg) (imm : BitVec 12) (s t : State), exec (.sw rs1 rs2 imm) s = .next t →
    inWindow s.cfg (s.readReg rs1 + immOfS (encode (.sw rs1 rs2 imm))) 4 = true →
    State.fetch { t with pc := s.readReg rs1 + immOfS (encode (.sw rs1 rs2 imm)) } = .ok (s.readReg rs2)

/-! ### The halt -/

/-- R190: EBREAK is the word 0x0010_0073; it writes no register and no memory, the pc goes on to pc + 4, and the
session is End with halt_pc = the pc of the EBREAK and halt_ret = x10. -/
def Obligations.EbreakHalts : Prop :=
  ∀ s : State, encode .ebreak = 0x00100073#32 ∧
    ∃ t, exec .ebreak s = .next t ∧ Retired s t (s.pc + 4#32) ∧ SameRegs s t ∧ SameBytes s t ∧
      t.session = .ended s.pc (s.readReg 10#5)

/-- R115, R190: no step but that of the word 0x0010_0073 ends the run in End. -/
def Obligations.OnlyEbreakEnds : Prop :=
  ∀ (s t : State) (p c : Word), s.session.terminal = false → step s = .next t → t.session = .ended p c →
    s.fetch = .ok 0x00100073#32 ∧ p = s.pc ∧ c = s.readReg 10#5 ∧ t.pc = s.pc + 4#32

/-! ### Faults -/

/-- R222, R225: every instruction answers a next state, in every state. Either it keeps the session, or it is EBREAK,
or it is a load or a store that aborts with OutOfBoundAccess and changes nothing else. -/
def Obligations.OnlyMemoryAccessesFault : Prop :=
  ∀ (i : Instr) (s : State), ∃ t, exec i s = .next t ∧
    (t.session = s.session ∨ (i = .ebreak ∧ t.session = .ended s.pc (s.readReg 10#5)) ∨
      (i.op ∈ memoryOps ∧ ∃ a, Aborts (exec i s) s (.outOfBoundAccess a)))

/-- R104, R105, R114: a fetch outside the window, or else a word that matches no registry entry, ends the step in
Abort with the pc; registers, memory and pc are as before. -/
def Obligations.FetchAndDecodeFaults : Prop :=
  ∀ s : State, s.session.terminal = false →
    (inWindow s.cfg s.pc 4 = false → Aborts (step s) s (.outOfBoundAccess s.pc)) ∧
    (∀ w : Word, s.fetch = .ok w → resolve (registry s.cfg.extM) w = none →
      Aborts (step s) s (.invalidInstruction s.pc))

/-! ### Memory -/

/-- R42: an access is in the window exactly when every byte it touches is; the last 4-byte access is at
`PMEM_BASE + PMEM_SIZE - 4`. -/
def Obligations.WindowHoldsEveryByte : Prop :=
  (∀ (cfg : Config) (addr : Word) (n : Nat), 0 < n → (inWindow cfg addr n = true ↔
    ∀ k, k < n → 0x80000000 ≤ addr.toNat + k ∧ addr.toNat + k < 0x80000000 + cfg.pmemSize)) ∧
  ∀ cfg : Config, cfg.ok = true →
    inWindow cfg (BitVec.ofNat 32 (0x80000000 + cfg.pmemSize - 4)) 4 = true ∧
    inWindow cfg (BitVec.ofNat 32 (0x80000000 + cfg.pmemSize - 3)) 4 = false ∧
    inWindow cfg (BitVec.ofNat 32 (0x80000000 + cfg.pmemSize)) 4 = false

/-- R43: a read in the window is the little-endian number of its bytes, zero-extended; outside it is
OutOfBoundAccess of its first address. -/
def Obligations.MemReadIsLittleEndian : Prop :=
  ∀ (s : State) (addr : Word) (w : Width),
    (inWindow s.cfg addr w.bytes = true → ∃ v, s.memRead addr w = .ok v ∧
      v.toNat = (Finset.range w.bytes).sum (fun k => (s.byteAt (addr.toNat + k)).toNat * 256 ^ k)) ∧
    (inWindow s.cfg addr w.bytes = false → s.memRead addr w = .error (.outOfBoundAccess addr))

/-- R44: a write in the window stores the low bytes of the value, the least significant lowest, and changes nothing
else; outside it no byte is written. -/
def Obligations.MemWriteStoresItsBytes : Prop :=
  ∀ (s : State) (addr : Word) (w : Width) (v : Word),
    (inWindow s.cfg addr w.bytes = true → ∃ t, s.memWrite addr w v = .ok t ∧
      (∀ k, k < w.bytes → t.byteAt (addr.toNat + k) = v.extractLsb' (8 * k) 8) ∧
      (∀ a, ¬(addr.toNat ≤ a ∧ a < addr.toNat + w.bytes) → t.byteAt a = s.byteAt a) ∧
      { t with mem := s.mem } = s) ∧
    (inWindow s.cfg addr w.bytes = false → s.memWrite addr w v = .error (.outOfBoundAccess addr))

/-- R43, R44: a read after a write of the same width at the same address gives the low bytes written. -/
def Obligations.ReadAfterWrite : Prop :=
  ∀ (s t : State) (addr : Word) (w : Width) (v : Word), s.memWrite addr w v = .ok t →
    ∃ r, t.memRead addr w = .ok r ∧ r.toNat = v.toNat % 256 ^ w.bytes

/-- R46: a halfword read at the address of a word write gives the low half, and a byte read at that address + 3 the
top byte. -/
def Obligations.MixedWidthReads : Prop :=
  ∀ (s t : State) (addr v : Word), s.cfg.ok = true → s.memWrite addr .word v = .ok t →
    t.memRead addr .half = .ok (v &&& 0x0000FFFF#32) ∧ t.memRead (addr + 3#32) .byte = .ok (v >>> 24)

/-- R51 (no instruction but a store changes a byte), and a changed byte is a byte of the window (R49). -/
def Obligations.OnlyStoresChangeMemory : Prop :=
  ∀ (s t : State) (a : Nat), step s = .next t → t.byteAt a ≠ s.byteAt a →
    (∃ w i, s.fetch = .ok w ∧ decode s.cfg w = .ok i ∧ i.op ∈ [Op.sb, .sh, .sw]) ∧
    0x80000000 ≤ a ∧ a < 0x80000000 + s.cfg.pmemSize

/-! ### Encoding -/

/-- Decoding the word of a well-formed instruction gives the instruction back: every row, every operand value. -/
def Obligations.DecodeOfEncode : Prop :=
  ∀ (cfg : Config) (i : Instr), i.wellFormed cfg = true → decode cfg (encode i) = .ok i

/-- A word that decodes is the word of its instruction, which is well formed: no bit of a legal word is dropped. -/
def Obligations.EncodeOfDecode : Prop :=
  ∀ (cfg : Config) (w : Word) (i : Instr), decode cfg w = .ok i → encode i = w ∧ i.wellFormed cfg = true

/-- R97: no word matches two entries of the registry, M rows included. -/
def Obligations.NoWordMatchesTwoRows : Prop :=
  ∀ w : Word, ∀ e ∈ registry true, ∀ e' ∈ registry true,
    e.compiled.accepts w = true → e'.compiled.accepts w = true → e = e'

/-- R98: the registry is what its pattern strings, compiled in order, build: 38 entries, or 46 with `EXT_M`. -/
def Obligations.RegistryIsBuiltFromPatterns : Prop :=
  (∀ extM, buildRegistry ((registry extM).map (·.row)) = .ok (registry extM)) ∧
  (registry false).length = 38 ∧ (registry true).length = 46 ∧
  ∀ e ∈ registry true, e.row.format = e.row.op.format

/-- R96: `resolve` answers the first entry, in registration order, whose pattern matches, and none when there is none. -/
def Obligations.FirstMatchWins : Prop :=
  ∀ (reg : List Entry) (w : Word), (∀ e, resolve reg w = some e ↔ ∃ before after, reg = before ++ e :: after ∧
      e.compiled.accepts w = true ∧ ∀ e' ∈ before, e'.compiled.accepts w = false) ∧
    (resolve reg w = none ↔ ∀ e ∈ reg, e.compiled.accepts w = false)

/-- R83, R191, R192 (every custom, MISC-MEM and other SYSTEM word), with the rest of the list of R81: every opcode that
R80 gives no entry, and every word of a decoded opcode whose functs are no entry's. -/
def Obligations.IllegalEncodingsRejected : Prop :=
  ∀ (cfg : Config) (w : Word), (
    (w.extractLsb' 0 2 ≠ 0b11#2) ∨
    (fieldOpcode w ∉ [0b0110111#7, 0b0010111#7, 0b0010011#7, 0b0110011#7, 0b1101111#7, 0b1100111#7, 0b1100011#7,
      0b0000011#7, 0b0100011#7, 0b1110011#7]) ∨
    (fieldOpcode w = 0b1110011#7 ∧ w ≠ 0x00100073#32) ∨
    (fieldOpcode w = 0b0010011#7 ∧ fieldFunct3 w = 0b001#3 ∧ fieldFunct7 w ≠ 0b0000000#7) ∨
    (fieldOpcode w = 0b0010011#7 ∧ fieldFunct3 w = 0b101#3 ∧ fieldFunct7 w ≠ 0b0000000#7 ∧
      fieldFunct7 w ≠ 0b0100000#7) ∨
    (fieldOpcode w = 0b0110011#7 ∧ fieldFunct7 w ≠ 0b0000000#7 ∧ fieldFunct7 w ≠ 0b0100000#7 ∧
      (fieldFunct7 w ≠ 0b0000001#7 ∨ cfg.extM = false)) ∨
    (fieldOpcode w = 0b0110011#7 ∧ fieldFunct7 w = 0b0100000#7 ∧ fieldFunct3 w ≠ 0b000#3 ∧
      fieldFunct3 w ≠ 0b101#3) ∨
    (fieldOpcode w = 0b1100111#7 ∧ fieldFunct3 w ≠ 0b000#3) ∨
    (fieldOpcode w = 0b1100011#7 ∧ fieldFunct3 w ∈ [0b010#3, 0b011#3]) ∨
    (fieldOpcode w = 0b0000011#7 ∧ fieldFunct3 w ∈ [0b011#3, 0b110#3, 0b111#3]) ∨
    (fieldOpcode w = 0b0100011#7 ∧ fieldFunct3 w ∉ [0b000#3, 0b001#3, 0b010#3])) → Illegal cfg w

/-- Words written out from the encodings of 30_encoding.md and 95_test_vectors.md decode to their instructions. -/
def Obligations.WordsDecode : Prop :=
  decodeTableWord 32 0x00000297 = some (.auipc 5#5 0#20) ∧
  decodeTableWord 32 0xFFF58513 = some (.addi 10#5 11#5 0xFFF#12) ∧
  decodeTableWord 32 0x4045D513 = some (.srai 10#5 11#5 4#5) ∧
  decodeTableWord 32 0x40C58533 = some (.sub 10#5 11#5 12#5) ∧
  decodeTableWord 32 0xFFDFF06F = some (.jal 0#5 0xFFDFF#20) ∧
  decodeTableWord 32 0xFEB51CE3 = some (.bne 10#5 11#5 0b111111111001#12) ∧
  decodeTableWord 32 0xFFE5A503 = some (.lw 10#5 11#5 0xFFE#12) ∧
  decodeTableWord 32 0xFEC5AFA3 = some (.sw 11#5 12#5 0xFFF#12) ∧
  decodeTableWord 32 0x00100073 = some .ebreak ∧
  decodeTableWord 32 0x02C5E533 = some (.rem 10#5 11#5 12#5) ∧
  decodeTableWord 32 0x00000073 = none

/-! ### The pattern matcher -/

/-- R93: a compiled pattern matches exactly the words that agree with its literals; the i-th of n letters stands for
bit n - 1 - i. The same with the full-position key and mask. -/
def Obligations.PatternMatchesItsLiterals : Prop :=
  ∀ (p : String) (c : Compiled), compilePattern p = .ok c → ∀ w : Word,
    (c.accepts w = true ↔ ∀ i, i < (patternLetters p).length →
      ((patternLetters p)[i]? = some '1' → w.getLsbD ((patternLetters p).length - 1 - i) = true) ∧
      ((patternLetters p)[i]? = some '0' → w.getLsbD ((patternLetters p).length - 1 - i) = false)) ∧
    (c.accepts w = true ↔ w.setWidth 64 &&& c.fullMask = c.fullKey)

/-- R90, R91: the first character outside `0`, `1`, `?` and space is the error, with its position, spaces counted;
a pattern without one compiles exactly when it has at most 64 letters. -/
def Obligations.PatternErrors : Prop :=
  ∀ p : String,
    (∀ good c rest, p.toList = good ++ c :: rest → (∀ d ∈ good, d ∈ ['0', '1', '?', ' ']) →
      c ∉ ['0', '1', '?', ' '] → compilePattern p = .error (.badChar c good.length)) ∧
    ((∀ d ∈ p.toList, d ∈ ['0', '1', '?', ' ']) →
      (64 < (patternLetters p).length → compilePattern p = .error (.tooLong (patternLetters p).length)) ∧
      ((patternLetters p).length ≤ 64 → ∃ c, compilePattern p = .ok c))

/-- R97: two 32-letter patterns overlap by the check of key and mask exactly when some word matches both. -/
def Obligations.OverlapMeansACommonWord : Prop :=
  ∀ (p q : String) (c d : Compiled), compilePattern p = .ok c → compilePattern q = .ok d →
    (patternLetters p).length = 32 → (patternLetters q).length = 32 →
    (c.overlaps d = true ↔ ∃ w, c.accepts w = true ∧ d.accepts w = true)

/-! ### Operands -/

/-- R8: `signext(x, len)` keeps the low `len` bits and copies bit len-1 into every bit above; other lengths are
refused; `sext_N` is `signext`, `zext_N` the low N bits; and `signext(1, 1)` is all ones. -/
def Obligations.SignextContract : Prop :=
  (∀ (x : Word) (len : Nat), 1 ≤ len → len ≤ 32 → ∃ v, signext x len = some v ∧
    ∀ k, k < 32 → v.getLsbD k = if k < len then x.getLsbD k else x.getLsbD (len - 1)) ∧
  (∀ (x : Word) (len : Nat), len = 0 ∨ 32 < len → signext x len = none) ∧
  (∀ (x : Word) (n : Nat), 1 ≤ n → n ≤ 32 → signext x n = some (sextLow n x) ∧
    ∀ k, (zextLow n x).getLsbD k = (decide (k < n) && x.getLsbD k)) ∧
  signext 1#32 1 = some 0xFFFFFFFF#32

/-- R69 to R76: the operand decoders, on every word. -/
def Obligations.OperandDecoders : Prop :=
  ∀ (w : Word) (s : State),
    decodeOperands .R w s = ⟨w.extractLsb' 7 5, s.readReg (w.extractLsb' 15 5), s.readReg (w.extractLsb' 20 5), 0#32⟩ ∧
    decodeOperands .I w s = ⟨w.extractLsb' 7 5, s.readReg (w.extractLsb' 15 5), 0#32, immOfI w⟩ ∧
    decodeOperands .S w s =
      ⟨w.extractLsb' 7 5, s.readReg (w.extractLsb' 15 5), s.readReg (w.extractLsb' 20 5), immOfS w⟩ ∧
    decodeOperands .B w s =
      ⟨w.extractLsb' 7 5, s.readReg (w.extractLsb' 15 5), s.readReg (w.extractLsb' 20 5),
        immOfB s.cfg.bImmLayout w⟩ ∧
    decodeOperands .U w s = ⟨w.extractLsb' 7 5, 0#32, 0#32, immOfU w⟩ ∧
    decodeOperands .J w s = ⟨w.extractLsb' 7 5, 0#32, 0#32, immOfJ w⟩ ∧
    decodeOperands .N w s = ⟨0#5, 0#32, 0#32, 0#32⟩

/-- R71, R74: the B immediate of layout `rv32` is even and in [-4096, 4094]; the J immediate is even and in
[-2^20, 2^20 - 2]. -/
def Obligations.OffsetRanges : Prop :=
  ∀ (w : Word) (s : State),
    (s.cfg.bImmLayout = .rv32 → (decodeOperands .B w s).imm.toInt % 2 = 0 ∧
      -4096 ≤ (decodeOperands .B w s).imm.toInt ∧ (decodeOperands .B w s).imm.toInt ≤ 4094) ∧
    (decodeOperands .J w s).imm.toInt % 2 = 0 ∧
      -(2 ^ 20) ≤ (decodeOperands .J w s).imm.toInt ∧ (decodeOperands .J w s).imm.toInt ≤ 2 ^ 20 - 2

/-! ### The step and the session -/

/-- A step whose 4 bytes at the pc decode to an instruction is that instruction's `exec` and nothing else. -/
def Obligations.StepRunsTheDecodedInstruction : Prop :=
  ∀ (s : State) (i : Instr), s.session.terminal = false → inWindow s.cfg s.pc 4 = true →
    decodeBytes s.cfg [s.byteAt s.pc.toNat, s.byteAt (s.pc.toNat + 1), s.byteAt (s.pc.toNat + 2),
      s.byteAt (s.pc.toNat + 3)] = .ok (i, []) →
    step s = exec i s

/-- The model's own (log entry 5): a word that decodes to an instruction, placed by `withFetchWord` in any state whose
parameters meet the constraint of R6, is what the next step runs. -/
def Obligations.PlacedWordRuns : Prop :=
  ∀ (s : State) (w : Nat) (i : Instr), s.cfg.ok = true → decodeTableWord 32 w = some i →
    (s.withFetchWord 32 w).session.terminal = false ∧ step (s.withFetchWord 32 w) = exec i (s.withFetchWord 32 w)

/-- In a terminal state a run does nothing, as R112 says, and neither does a step: the model's choice of what a step is
(log entry 4). -/
def Obligations.TerminalSessionsStay : Prop :=
  ∀ (s : State) (n : BitVec 64), s.session.terminal = true → step s = .next s ∧ s.run n = .next s

/-- Every step, from every state, answers a next state of the same configuration (R32), and moves the session only as
R113 says: it stays, or from a state that is not terminal it goes to End by a halt or to Abort by a fault. -/
def Obligations.StepMovesTheSession : Prop :=
  ∀ s : State, ∃ t, step s = .next t ∧ t.cfg = s.cfg ∧
    (t.session = s.session ∨ (s.session.terminal = false ∧
      (t.session = .ended s.pc (s.readReg 10#5) ∨
        ∃ f, t = { s with session := .abort s.pc 0xFFFFFFFF#32 f })))

/-- R117: a step of a session that is not terminal counts one retired instruction unless it fails; a failing step and
a step in a terminal state count none. -/
def Obligations.RetiredCountsOkAndHalt : Prop :=
  ∀ (s t : State), step s = .next t →
    (s.session.terminal = true ∨ (∃ p c f, t.session = .abort p c f) → t.retired = s.retired) ∧
    (s.session.terminal = false → (∀ p c f, t.session ≠ .abort p c f) → s.retired ≠ BitVec.allOnes 64 →
      t.retired = s.retired + 1#64)

/-- R113, R116: `run(n)` is n steps, from any session the host can call it in. -/
def Obligations.RunIsIteratedStep : Prop :=
  ∀ (n : BitVec 64) (s : State), s.session ≠ .running → s.run n = Host.Core.run core n.toNat s

/-- R116: a run continues from where the one before it stopped. -/
def Obligations.RunsCompose : Prop :=
  ∀ (a b : BitVec 64) (s t : State), s.session ≠ .running → a.toNat + b.toNat < 2 ^ 64 →
    s.run a = .next t → s.run (a + b) = t.run b

/-- R265: a run from Stop ends in End, in Abort, or in Stop after n retired steps. -/
def Obligations.RunEnds : Prop :=
  ∀ (n : BitVec 64) (s : State), s.session = .stop → s.retired.toNat + n.toNat < 2 ^ 64 → ∃ t, s.run n = .next t ∧
    ((∃ p c, t.session = .ended p c) ∨ (∃ p f, t.session = .abort p 0xFFFFFFFF#32 f) ∨
      (t.session = .stop ∧ t.retired.toNat = s.retired.toNat + n.toNat)) ∧
    s.retired.toNat ≤ t.retired.toNat ∧ t.retired.toNat ≤ s.retired.toNat + n.toNat

/-- R119: quit goes from Stop, Abort and End to Quit and changes nothing else, so introspection answers as before;
after it a run does nothing; and no step enters Quit. -/
def Obligations.QuitIsTerminal : Prop :=
  (∀ (s : State) (n : BitVec 64), s.session ≠ .running →
    s.hostQuit = { s with session := .quit } ∧ s.hostQuit.run n = .next s.hostQuit ∧
    s.hostQuit.readPc = s.readPc ∧ (∀ idx, s.hostQuit.readRegister idx = s.readRegister idx) ∧
    ∀ addr len, s.hostQuit.readMemory addr len = s.readMemory addr len) ∧
  ∀ s t : State, step s = .next t → t.session = .quit → s.session = .quit

/-! ### Reset and the host interface -/

/-- R251, R253: the pc, the session and the counter after reset; with them x0 and the zeroed memory of an empty image
(R255). Not x1 to x31, which are the model's choice (log entry 3). -/
def Obligations.ResetValues : Prop :=
  State.reset.pc = 0x80000000#32 ∧ State.reset.readReg 0#5 = 0#32 ∧ State.reset.session = .stop ∧
    State.reset.retired = 0#64 ∧ ∀ a, State.reset.byteAt a = 0#8

/-- R250 to R253: `init` loads the image at 0x8000_0000 and zeroes the rest; an image longer than the window is
refused. -/
def Obligations.InitLoadsTheImage : Prop :=
  ∀ (cfg : Config) (gpr : Vector Word 32) (image : List Byte), cfg.ok = true →
    (cfg.pmemSize < image.length → State.init cfg gpr image = .error (.imageTooLarge image.length)) ∧
    (image.length ≤ cfg.pmemSize → ∃ s, State.init cfg gpr image = .ok s ∧
      (∀ a, s.byteAt a = if 0x80000000 ≤ a then image.getD (a - 0x80000000) 0#8 else 0#8) ∧
      (∀ r : Reg, s.readReg r = if r = 0#5 then 0#32 else gpr[r.toNat]'r.isLt) ∧
      s.pc = 0x80000000#32 ∧ s.session = .stop ∧ s.retired = 0#64 ∧ s.cfg = cfg)

/-- R35: `read_register` gives x[idx] for 0..31 and refuses another index; `read_pc` gives pc. -/
def Obligations.ReadRegisterAnswers : Prop :=
  ∀ s : State, s.readPc = s.pc ∧ s.readRegister 0 = .ok 0#32 ∧
    (∀ r : Reg, s.readRegister r.toNat = .ok (s.readReg r)) ∧
    (∀ idx, 32 ≤ idx → s.readRegister idx = .error (.badRegister idx))

/-- R55: `read_memory` gives the bytes in address order, or OutOfBoundAccess when the window test fails. -/
def Obligations.ReadMemoryAnswers : Prop :=
  ∀ (s : State) (addr : Word) (len : Nat),
    (inWindow s.cfg addr len = true → ∃ bs, s.readMemory addr len = .ok bs ∧ bs.length = len ∧
      ∀ k, k < len → bs[k]? = some (s.byteAt (addr.toNat + k))) ∧
    (inWindow s.cfg addr len = false → s.readMemory addr len = .error (.outOfBoundAccess addr)) ∧
    (inWindow s.cfg addr 0 = true ↔ 0x80000000 ≤ addr.toNat ∧ addr.toNat ≤ 0x80000000 + s.cfg.pmemSize)

/-- R236, R237: the diagnostic of an invalid instruction gives halt_pc, the bytes at halt_pc to halt_pc + 7, those
outside the window as none, the two little-endian words they make and the two causes; the report of a halt gives its pc
and code, "good" for the code 0 only. That a word with a byte outside the window is none is log entry 12. -/
def Obligations.ReportsShowTheState : Prop :=
  ∀ (s : State) (p c q : Word),
    (s.session = .abort p c (.invalidInstruction q) → ∃ d, s.diagnostic = some d ∧ d.pc = p ∧
      d.causes = [.notImplemented, .implementedIncorrectly] ∧ d.bytes.length = 8 ∧ d.words.length = 2 ∧
      (∀ k, k < 8 → d.bytes[k]? = some (if 0x80000000 ≤ p.toNat + k ∧ p.toNat + k < 0x80000000 + s.cfg.pmemSize
        then some (s.byteAt (p.toNat + k)) else none)) ∧
      ∀ j, j < 2 → d.words[j]? = some (
        if 0x80000000 ≤ p.toNat + 4 * j ∧ p.toNat + 4 * j + 4 ≤ 0x80000000 + s.cfg.pmemSize then
          some (wordOfBytes (s.byteAt (p.toNat + 4 * j)) (s.byteAt (p.toNat + 4 * j + 1))
            (s.byteAt (p.toNat + 4 * j + 2)) (s.byteAt (p.toNat + 4 * j + 3)))
        else none)) ∧
    (s.session = .ended p c → s.haltReport = some (p, c, decide (c = 0#32)))

/-- R112, R117, R237: what a run reports. In a terminal state the advisory alone. Else the retired count, and before it,
by how the run ended: the diagnostic, the warning with the address of the rejected access, the halt report, or nothing
when the run is back in Stop. The order of the reports is the model's choice (log entry 12). -/
def Obligations.RunReportsItsEnd : Prop :=
  ∀ (s : State) (n : BitVec 64),
    (s.session.terminal = true → s.runReports n = [.advisory]) ∧
    (s.session.terminal = false → ∃ t, s.run n = .next t ∧
      ((t.session = .stop ∧ s.runReports n = [.retired t.retired]) ∨
        (∃ p c, t.session = .ended p c ∧ s.runReports n = [.halted p c (decide (c = 0#32)), .retired t.retired]) ∨
        (∃ p a, t.session = .abort p 0xFFFFFFFF#32 (.outOfBoundAccess a) ∧
          s.runReports n = [.outOfBoundAccess a, .retired t.retired]) ∨
        ∃ p q d, t.session = .abort p 0xFFFFFFFF#32 (.invalidInstruction q) ∧ t.diagnostic = some d ∧ d.pc = p ∧
          s.runReports n = [.invalidInstruction d, .retired t.retired]))

/-! ### The invariant -/

/-- The reset state is well formed. -/
def Obligations.ResetIsWellFormed : Prop := State.reset.Inv

/-- The state every `init` makes is well formed. -/
def Obligations.InitIsWellFormed : Prop :=
  ∀ (cfg : Config) (gpr : Vector Word 32) (image : List Byte) (s : State), State.init cfg gpr image = .ok s → s.Inv

/-- Every step from a well-formed state leads to a well-formed state. -/
def Obligations.StepKeepsWellFormed : Prop :=
  ∀ (s t : State), s.Inv → step s = .next t → t.Inv

/-- R21, R106: x0 reads 0 after every step, and x[0]'s slot is 0 after every instruction that retires, whatever the
slot held and whatever the instruction wrote. -/
def Obligations.ZeroRegisterRestored : Prop :=
  (∀ s t : State, step s = .next t → t.readReg 0#5 = 0#32) ∧
  ∀ (i : Instr) (s t : State), exec i s = .next t → (∀ p c f, t.session ≠ .abort p c f) → t.regs[0] = 0#32
end

