-- ==== Sys2Proof/Laws/Decode.lean ====
section
/-! SUPPORT. The fields of an encoded word, what a registry entry accepts, and what `resolve` answers. -/

namespace Sys2Proof

/-! ### The fields of an encoded word -/

section R
variable (funct7 : BitVec 7) (rs2 rs1 : Reg) (funct3 : BitVec 3) (rd : Reg) (opcode : BitVec 7)

theorem fieldOpcode_encodeR : fieldOpcode (encodeR funct7 rs2 rs1 funct3 rd opcode) = opcode := by
  apply BitVec.eq_of_getLsbD_eq
  intro i hi
  interval_cases i <;> simp [fieldOpcode, encodeR, place]

theorem fieldFunct3_encodeR : fieldFunct3 (encodeR funct7 rs2 rs1 funct3 rd opcode) = funct3 := by
  apply BitVec.eq_of_getLsbD_eq
  intro i hi
  interval_cases i <;> simp [fieldFunct3, encodeR, place]

theorem fieldFunct7_encodeR : fieldFunct7 (encodeR funct7 rs2 rs1 funct3 rd opcode) = funct7 := by
  apply BitVec.eq_of_getLsbD_eq
  intro i hi
  interval_cases i <;> simp [fieldFunct7, encodeR, place]

theorem fieldRd_encodeR : fieldRd (encodeR funct7 rs2 rs1 funct3 rd opcode) = rd := by
  apply BitVec.eq_of_getLsbD_eq
  intro i hi
  interval_cases i <;> simp [fieldRd, encodeR, place]

theorem fieldRs1_encodeR : fieldRs1 (encodeR funct7 rs2 rs1 funct3 rd opcode) = rs1 := by
  apply BitVec.eq_of_getLsbD_eq
  intro i hi
  interval_cases i <;> simp [fieldRs1, encodeR, place]

theorem fieldRs2_encodeR : fieldRs2 (encodeR funct7 rs2 rs1 funct3 rd opcode) = rs2 := by
  apply BitVec.eq_of_getLsbD_eq
  intro i hi
  interval_cases i <;> simp [fieldRs2, encodeR, place]

theorem fieldShamt_encodeR : fieldShamt (encodeR funct7 rs2 rs1 funct3 rd opcode) = rs2 := by
  apply BitVec.eq_of_getLsbD_eq
  intro i hi
  interval_cases i <;> simp [fieldShamt, encodeR, place]

/-- The bits that the R rows and the rows of the immediate shifts compare. -/
theorem encodeR_and : encodeR funct7 rs2 rs1 funct3 rd opcode &&& 0xFE00707F#32
    = encodeR funct7 0#5 0#5 funct3 0#5 opcode := by
  apply BitVec.eq_of_getLsbD_eq
  intro i hi
  interval_cases i <;> simp [encodeR, place]

end R

section I
variable (imm : BitVec 12) (rs1 : Reg) (funct3 : BitVec 3) (rd : Reg) (opcode : BitVec 7)

theorem fieldOpcode_encodeI : fieldOpcode (encodeI imm rs1 funct3 rd opcode) = opcode := by
  apply BitVec.eq_of_getLsbD_eq
  intro i hi
  interval_cases i <;> simp [fieldOpcode, encodeI, place]

theorem fieldFunct3_encodeI : fieldFunct3 (encodeI imm rs1 funct3 rd opcode) = funct3 := by
  apply BitVec.eq_of_getLsbD_eq
  intro i hi
  interval_cases i <;> simp [fieldFunct3, encodeI, place]

theorem fieldRd_encodeI : fieldRd (encodeI imm rs1 funct3 rd opcode) = rd := by
  apply BitVec.eq_of_getLsbD_eq
  intro i hi
  interval_cases i <;> simp [fieldRd, encodeI, place]

theorem fieldRs1_encodeI : fieldRs1 (encodeI imm rs1 funct3 rd opcode) = rs1 := by
  apply BitVec.eq_of_getLsbD_eq
  intro i hi
  interval_cases i <;> simp [fieldRs1, encodeI, place]

theorem fieldImmI_encodeI : fieldImmI (encodeI imm rs1 funct3 rd opcode) = imm := by
  apply BitVec.eq_of_getLsbD_eq
  intro i hi
  interval_cases i <;> simp [fieldImmI, encodeI, place]

/-- The bits that the I rows compare. -/
theorem encodeI_and : encodeI imm rs1 funct3 rd opcode &&& 0x0000707F#32
    = encodeI 0#12 0#5 funct3 0#5 opcode := by
  apply BitVec.eq_of_getLsbD_eq
  intro i hi
  interval_cases i <;> simp [encodeI, place]

end I

/-- Bit `i` of an immediate field made of a 7-bit and a 5-bit part. -/
theorem getLsbD_append_7_5 (a : BitVec 7) (b : BitVec 5) (i : Nat) :
    (a ++ b : BitVec 12).getLsbD i = if i < 5 then b.getLsbD i else a.getLsbD (i - 5) :=
  BitVec.getLsbD_append.trans (by split <;> simp_all)

/-- Bit `i` of the 13 bits of the branch immediate's parts (30_encoding.md R71). -/
theorem getLsbD_append_1_1_6_4_1 (a b : BitVec 1) (c : BitVec 6) (d : BitVec 4) (e : BitVec 1) (i : Nat) :
    (a ++ (b ++ (c ++ (d ++ e))) : BitVec 13).getLsbD i =
      if i < 1 then e.getLsbD i else if i < 5 then d.getLsbD (i - 1) else if i < 11 then c.getLsbD (i - 5)
      else if i < 12 then b.getLsbD (i - 11) else a.getLsbD (i - 12) := by
  refine (BitVec.getLsbD_append (x := a) (y := (b ++ (c ++ (d ++ e)) : BitVec (1 + (6 + (4 + 1)))))).trans ?_
  rw [BitVec.getLsbD_append, BitVec.getLsbD_append, BitVec.getLsbD_append]
  split_ifs <;> simp_all <;> try omega

/-- Bit `i` of the 21 bits of the jump immediate's parts (30_encoding.md R74). -/
theorem getLsbD_append_1_8_1_10_1 (a : BitVec 1) (b : BitVec 8) (c : BitVec 1) (d : BitVec 10) (e : BitVec 1)
    (i : Nat) :
    (a ++ (b ++ (c ++ (d ++ e))) : BitVec 21).getLsbD i =
      if i < 1 then e.getLsbD i else if i < 11 then d.getLsbD (i - 1) else if i < 12 then c.getLsbD (i - 11)
      else if i < 20 then b.getLsbD (i - 12) else a.getLsbD (i - 20) := by
  refine (BitVec.getLsbD_append (x := a) (y := (b ++ (c ++ (d ++ e)) : BitVec (8 + (1 + (10 + 1)))))).trans ?_
  rw [BitVec.getLsbD_append, BitVec.getLsbD_append, BitVec.getLsbD_append]
  split_ifs <;> simp_all <;> try omega

/-- Bit `i` of the 20 bits w[31:12] of a branch word put together from its fields (30_encoding.md R72). -/
theorem getLsbD_append_7_5_5_3 (a : BitVec 7) (b c : BitVec 5) (d : BitVec 3) (i : Nat) :
    (a ++ (b ++ (c ++ d)) : BitVec 20).getLsbD i =
      if i < 3 then d.getLsbD i else if i < 8 then c.getLsbD (i - 3) else if i < 13 then b.getLsbD (i - 8)
      else a.getLsbD (i - 13) := by
  refine (BitVec.getLsbD_append (x := a) (y := (b ++ (c ++ d) : BitVec (5 + (5 + 3))))).trans ?_
  rw [BitVec.getLsbD_append, BitVec.getLsbD_append]
  split_ifs <;> simp_all <;> try omega

section SB
variable (imm : BitVec 12) (rs2 rs1 : Reg) (funct3 : BitVec 3) (opcode : BitVec 7)

theorem fieldOpcode_encodeSB : fieldOpcode (encodeSB imm rs2 rs1 funct3 opcode) = opcode := by
  apply BitVec.eq_of_getLsbD_eq
  intro i hi
  interval_cases i <;> simp [fieldOpcode, encodeSB, place]

theorem fieldRs1_encodeSB : fieldRs1 (encodeSB imm rs2 rs1 funct3 opcode) = rs1 := by
  apply BitVec.eq_of_getLsbD_eq
  intro i hi
  interval_cases i <;> simp [fieldRs1, encodeSB, place]

theorem fieldRs2_encodeSB : fieldRs2 (encodeSB imm rs2 rs1 funct3 opcode) = rs2 := by
  apply BitVec.eq_of_getLsbD_eq
  intro i hi
  interval_cases i <;> simp [fieldRs2, encodeSB, place]

theorem fieldFunct3_encodeSB : fieldFunct3 (encodeSB imm rs2 rs1 funct3 opcode) = funct3 := by
  apply BitVec.eq_of_getLsbD_eq
  intro i hi
  interval_cases i <;> simp [fieldFunct3, encodeSB, place]

theorem fieldImmSB_encodeSB : fieldImmSB (encodeSB imm rs2 rs1 funct3 opcode) = imm := by
  apply BitVec.eq_of_getLsbD_eq
  intro i hi
  simp only [fieldImmSB, getLsbD_append_7_5]
  interval_cases i <;> simp [encodeSB, place]

/-- The bits that the S and B rows compare. -/
theorem encodeSB_and : encodeSB imm rs2 rs1 funct3 opcode &&& 0x0000707F#32
    = encodeSB 0#12 0#5 0#5 funct3 opcode := by
  apply BitVec.eq_of_getLsbD_eq
  intro i hi
  interval_cases i <;> simp [encodeSB, place]

end SB

section UJ
variable (imm : BitVec 20) (rd : Reg) (opcode : BitVec 7)

theorem fieldOpcode_encodeUJ : fieldOpcode (encodeUJ imm rd opcode) = opcode := by
  apply BitVec.eq_of_getLsbD_eq
  intro i hi
  interval_cases i <;> simp [fieldOpcode, encodeUJ, place]

theorem fieldRd_encodeUJ : fieldRd (encodeUJ imm rd opcode) = rd := by
  apply BitVec.eq_of_getLsbD_eq
  intro i hi
  interval_cases i <;> simp [fieldRd, encodeUJ, place]

theorem fieldImmUJ_encodeUJ : fieldImmUJ (encodeUJ imm rd opcode) = imm := by
  apply BitVec.eq_of_getLsbD_eq
  intro i hi
  interval_cases i <;> simp [fieldImmUJ, encodeUJ, place]

/-- The bits that the U and J rows compare. -/
theorem encodeUJ_and : encodeUJ imm rd opcode &&& 0x0000007F#32 = encodeUJ 0#20 0#5 opcode := by
  apply BitVec.eq_of_getLsbD_eq
  intro i hi
  interval_cases i <;> simp [encodeUJ, place]

end UJ

/-! ### What an entry accepts -/

/-- With shift 0, an entry whose key and mask fit a word accepts the words that agree with the key under the mask. -/
theorem accepts_iff_and (key mask w : Word) :
    Compiled.accepts ⟨key.setWidth 64, mask.setWidth 64, 0⟩ w = true ↔ w &&& mask = key := by
  unfold Compiled.accepts
  rw [beq_iff_eq, BitVec.ushiftRight_zero, ← BitVec.setWidth_and]
  constructor
  · intro h
    have h' := congrArg (BitVec.setWidth 32) h
    simpa using h'
  · intro h; rw [h]

theorem accepts_encodeR {funct7 : BitVec 7} {rs2 rs1 : Reg} {funct3 : BitVec 3} {rd : Reg} {opcode : BitVec 7}
    {key : Word} (h : encodeR funct7 0#5 0#5 funct3 0#5 opcode = key) :
    Compiled.accepts ⟨key.setWidth 64, BitVec.setWidth 64 0xFE00707F#32, 0⟩
      (encodeR funct7 rs2 rs1 funct3 rd opcode) = true :=
  (accepts_iff_and _ _ _).2 ((encodeR_and ..).trans h)

theorem accepts_encodeI {imm : BitVec 12} {rs1 : Reg} {funct3 : BitVec 3} {rd : Reg} {opcode : BitVec 7}
    {key : Word} (h : encodeI 0#12 0#5 funct3 0#5 opcode = key) :
    Compiled.accepts ⟨key.setWidth 64, BitVec.setWidth 64 0x0000707F#32, 0⟩
      (encodeI imm rs1 funct3 rd opcode) = true :=
  (accepts_iff_and _ _ _).2 ((encodeI_and ..).trans h)

theorem accepts_encodeSB {imm : BitVec 12} {rs2 rs1 : Reg} {funct3 : BitVec 3} {opcode : BitVec 7}
    {key : Word} (h : encodeSB 0#12 0#5 0#5 funct3 opcode = key) :
    Compiled.accepts ⟨key.setWidth 64, BitVec.setWidth 64 0x0000707F#32, 0⟩
      (encodeSB imm rs2 rs1 funct3 opcode) = true :=
  (accepts_iff_and _ _ _).2 ((encodeSB_and ..).trans h)

theorem accepts_encodeUJ {imm : BitVec 20} {rd : Reg} {opcode : BitVec 7}
    {key : Word} (h : encodeUJ 0#20 0#5 opcode = key) :
    Compiled.accepts ⟨key.setWidth 64, BitVec.setWidth 64 0x0000007F#32, 0⟩ (encodeUJ imm rd opcode) = true :=
  (accepts_iff_and _ _ _).2 ((encodeUJ_and ..).trans h)

/-! ### What `resolve` and `decode` answer -/

/-- `resolve` answers an entry of the registry that accepts the word. -/
theorem resolve_some {reg : List Entry} {w : Word} {e : Entry} (h : resolve reg w = some e) :
    e ∈ reg ∧ e.compiled.accepts w = true :=
  ⟨List.mem_of_find?_eq_some h, by simpa using List.find?_some h⟩

/-- If one entry accepts the word and no entry but it does, `resolve` answers that entry. -/
theorem resolve_eq_of_only {reg : List Entry} {w : Word} {e : Entry} (he : e ∈ reg)
    (ha : e.compiled.accepts w = true) (only : ∀ e' ∈ reg, e'.compiled.accepts w = true → e' = e) :
    resolve reg w = some e := by
  cases h : resolve reg w with
  | none => exact absurd ha (by simpa using List.find?_eq_none.1 h e he)
  | some e' => rw [only e' (resolve_some h).1 (resolve_some h).2]

theorem decode_eq_ok {cfg : Config} {w : Word} {i : Instr} (h : decode cfg w = .ok i) :
    ∃ e, resolve (registry cfg.extM) w = some e ∧ e.row.op.instr w = i := by
  unfold decode at h
  split at h
  · exact ⟨_, ‹_›, by simpa using h⟩
  · simp at h

/-- A word that decodes with the whole opcode table decodes the same with the registry `Config.admitting` gives it. -/
theorem decode_admitting {cfg : Config} {w : Word} {i : Instr} (h : decode Config.full w = .ok i) :
    decode (cfg.admitting w) w = .ok i := by
  have hb : ∀ b, registry b = baseRows ++ (if b then mExtRows else []) := by intro b; cases b <;> simp [registry]
  unfold Config.admitting
  unfold decode resolve at h ⊢
  rw [hb, List.find?_append] at h ⊢
  simp only [Config.full, if_true] at h
  cases hbase : List.find? (fun e => e.compiled.accepts w) baseRows with
  | some e => rw [hbase] at h; simpa using h
  | none =>
    rw [hbase] at h
    cases hm : resolve mExtRows w with
    | none => unfold resolve at hm; rw [hm] at h; simp at h
    | some e => unfold resolve at hm; rw [hm] at h; simpa [hm] using h

end Sys2Proof
end

