-- ==== Sys2Proof/Laws/State.lean ====
section
/-! SUPPORT. One lemma per field per update of the state and of an effect, and what reading a register gives after each
update. -/

namespace Sys2Proof.Machine

/-! ### writeSlot -/

@[simp] theorem writeSlot_pc (s : State) (r : Reg) (v : Word) : (s.writeSlot r v).pc = s.pc := rfl
@[simp] theorem writeSlot_mem (s : State) (r : Reg) (v : Word) : (s.writeSlot r v).mem = s.mem := rfl
@[simp] theorem writeSlot_session (s : State) (r : Reg) (v : Word) : (s.writeSlot r v).session = s.session := rfl
@[simp] theorem writeSlot_retired (s : State) (r : Reg) (v : Word) : (s.writeSlot r v).retired = s.retired := rfl
@[simp] theorem writeSlot_cfg (s : State) (r : Reg) (v : Word) : (s.writeSlot r v).cfg = s.cfg := rfl
@[simp] theorem writeSlot_draws (s : State) (r : Reg) (v : Word) : (s.writeSlot r v).draws = s.draws := rfl
@[simp] theorem writeSlot_regs (s : State) (r : Reg) (v : Word) :
    (s.writeSlot r v).regs = s.regs.set r.toNat v r.isLt := rfl

/-! ### restoreZero -/

@[simp] theorem restoreZero_pc (s : State) : s.restoreZero.pc = s.pc := rfl
@[simp] theorem restoreZero_mem (s : State) : s.restoreZero.mem = s.mem := rfl
@[simp] theorem restoreZero_session (s : State) : s.restoreZero.session = s.session := rfl
@[simp] theorem restoreZero_retired (s : State) : s.restoreZero.retired = s.retired := rfl
@[simp] theorem restoreZero_cfg (s : State) : s.restoreZero.cfg = s.cfg := rfl
@[simp] theorem restoreZero_draws (s : State) : s.restoreZero.draws = s.draws := rfl
@[simp] theorem restoreZero_regs (s : State) : s.restoreZero.regs = s.regs.set 0 0#32 := rfl

/-! ### takeFault -/

@[simp] theorem takeFault_regs (s : State) (f : Fault) : (s.takeFault f).regs = s.regs := rfl
@[simp] theorem takeFault_pc (s : State) (f : Fault) : (s.takeFault f).pc = s.pc := rfl
@[simp] theorem takeFault_mem (s : State) (f : Fault) : (s.takeFault f).mem = s.mem := rfl
@[simp] theorem takeFault_session (s : State) (f : Fault) :
    (s.takeFault f).session = .abort s.pc haltRetMax f := rfl
@[simp] theorem takeFault_retired (s : State) (f : Fault) : (s.takeFault f).retired = s.retired := rfl
@[simp] theorem takeFault_cfg (s : State) (f : Fault) : (s.takeFault f).cfg = s.cfg := rfl
@[simp] theorem takeFault_draws (s : State) (f : Fault) : (s.takeFault f).draws = s.draws := rfl

/-! ### retire -/

@[simp] theorem retire_regs (s : State) : s.retire.regs = s.regs := by unfold State.retire; split <;> rfl
@[simp] theorem retire_pc (s : State) : s.retire.pc = s.pc := by unfold State.retire; split <;> rfl
@[simp] theorem retire_mem (s : State) : s.retire.mem = s.mem := by unfold State.retire; split <;> rfl
@[simp] theorem retire_session (s : State) : s.retire.session = s.session := by unfold State.retire; split <;> rfl
@[simp] theorem retire_cfg (s : State) : s.retire.cfg = s.cfg := by unfold State.retire; split <;> rfl
theorem retire_retired {s : State} (h : s.retired ≠ BitVec.allOnes 64) : s.retire.retired = s.retired + 1#64 := by
  unfold State.retire; rw [if_neg h]
theorem retire_draws {s : State} (h : s.retired ≠ BitVec.allOnes 64) : s.retire.draws = s.draws := by
  unfold State.retire; rw [if_neg h]

/-! ### Reading a register depends on the slots alone -/

theorem readReg_eq_of_regs {s t : State} (h : t.regs = s.regs) (r : Reg) : t.readReg r = s.readReg r := by
  unfold State.readReg; rw [h]

@[simp] theorem readReg_zero (s : State) : s.readReg 0#5 = 0#32 := rfl

@[simp] theorem readReg_takeFault (s : State) (f : Fault) (r : Reg) : (s.takeFault f).readReg r = s.readReg r := rfl

@[simp] theorem readReg_retire (s : State) (r : Reg) : s.retire.readReg r = s.readReg r :=
  readReg_eq_of_regs (retire_regs s) r

/-- Restoring slot 0 changes no register as read. -/
@[simp] theorem readReg_restoreZero (s : State) (r : Reg) : s.restoreZero.readReg r = s.readReg r := by
  unfold State.readReg
  split
  · rfl
  · rename_i h
    have h0 : 0 ≠ r.toNat := fun e => h (BitVec.eq_of_toNat_eq e.symm)
    simp [h0]

/-- A write into a slot is read back, except from x0. -/
theorem readReg_writeSlot (s : State) (r q : Reg) (v : Word) :
    (s.writeSlot q v).readReg r = if r = q ∧ q ≠ 0#5 then v else s.readReg r := by
  unfold State.readReg
  by_cases hr : r = 0#5
  · subst hr
    by_cases hq : 0#5 = q
    · subst hq; simp
    · simp [hq]
  · by_cases hq : r = q
    · subst hq; simp [hr]
    · have : q.toNat ≠ r.toNat := fun e => hq (BitVec.eq_of_toNat_eq e.symm)
      simp [hr, hq, this]

/-! ### Effects -/

@[simp] theorem start_st (s : State) : (Effect.start s).st = s := rfl
@[simp] theorem start_dnpc (s : State) : (Effect.start s).dnpc = s.pc + 4#32 := rfl
@[simp] theorem start_halt (s : State) : (Effect.start s).halt = none := rfl
@[simp] theorem writeReg_st (e : Effect) (r : Reg) (v : Word) : (e.writeReg r v).st = e.st.writeSlot r v := rfl
@[simp] theorem writeReg_dnpc (e : Effect) (r : Reg) (v : Word) : (e.writeReg r v).dnpc = e.dnpc := rfl
@[simp] theorem writeReg_halt (e : Effect) (r : Reg) (v : Word) : (e.writeReg r v).halt = e.halt := rfl
@[simp] theorem setNextPc_st (e : Effect) (t : Word) : (e.setNextPc t).st = e.st := rfl
@[simp] theorem setNextPc_dnpc (e : Effect) (t : Word) : (e.setNextPc t).dnpc = t := rfl
@[simp] theorem setNextPc_halt (e : Effect) (t : Word) : (e.setNextPc t).halt = e.halt := rfl
@[simp] theorem haltWith_st (e : Effect) (c : Word) : (e.haltWith c).st = e.st := rfl
@[simp] theorem haltWith_dnpc (e : Effect) (c : Word) : (e.haltWith c).dnpc = e.dnpc := rfl
@[simp] theorem haltWith_halt (e : Effect) (c : Word) : (e.haltWith c).halt = some c := rfl

/-! ### commit -/

@[simp] theorem commit_regs (e : Effect) : e.commit.regs = e.st.regs.set 0 0#32 := by
  unfold Effect.commit; cases e.halt <;> simp
@[simp] theorem commit_pc (e : Effect) : e.commit.pc = e.dnpc := by
  unfold Effect.commit; cases e.halt <;> simp
@[simp] theorem commit_mem (e : Effect) : e.commit.mem = e.st.mem := by
  unfold Effect.commit; cases e.halt <;> simp
@[simp] theorem commit_cfg (e : Effect) : e.commit.cfg = e.st.cfg := by
  unfold Effect.commit; cases e.halt <;> simp
theorem commit_session (e : Effect) :
    e.commit.session = (match e.halt with | none => e.st.session | some c => .ended e.st.pc c) := by
  unfold Effect.commit; cases e.halt <;> simp
theorem commit_retired {e : Effect} (h : e.st.retired ≠ BitVec.allOnes 64) :
    e.commit.retired = e.st.retired + 1#64 := by
  unfold Effect.commit; cases e.halt <;> exact retire_retired h
theorem commit_draws {e : Effect} (h : e.st.retired ≠ BitVec.allOnes 64) : e.commit.draws = e.st.draws := by
  unfold Effect.commit; cases e.halt <;> exact retire_draws h
@[simp] theorem readReg_commit (e : Effect) (r : Reg) : e.commit.readReg r = e.st.readReg r :=
  (readReg_eq_of_regs (by simp) r).trans (readReg_restoreZero e.st r)

/-! ### placeWord -/

@[simp] theorem placeWord_regs (s : State) (w : Word) : (s.placeWord w).regs = s.regs := rfl
@[simp] theorem placeWord_retired (s : State) (w : Word) : (s.placeWord w).retired = s.retired := rfl

end Sys2Proof.Machine
end

