-- ==== Sys2Proof/Laws/Memory.lean ====
section
/-! SUPPORT. Reading memory after a change of it, and that every memory operation keeps the canonical form and the
bank's bounds. -/

namespace Sys2Proof.Machine

/-! ### Reading -/

theorem read_erase (m : Memory) (a b : Nat) :
    Memory.read (Memory.erase m a) b = if b = a then 0#8 else Memory.read m b := by
  induction m with
  | nil => simp [Memory.erase, Memory.read]
  | cons c m ih =>
    obtain ⟨k, v⟩ := c
    by_cases h : a = k
    · subst h
      simp only [Memory.erase, if_true, ih, Memory.read]
      split <;> rfl
    · by_cases hk : b = k
      · subst hk; simp [Memory.erase, Memory.read, h, Ne.symm h]
      · simp [Memory.erase, Memory.read, h, hk, ih]

theorem read_insert_same (m : Memory) (a : Nat) (v : Byte) :
    Memory.read (Memory.insert (Memory.erase m a) a v) a = v := by
  induction m with
  | nil => simp [Memory.erase, Memory.insert, Memory.read]
  | cons c m ih =>
    obtain ⟨k, x⟩ := c
    by_cases h : a = k
    · subst h; simpa [Memory.erase] using ih
    · by_cases hl : a < k
      · simp [Memory.erase, Memory.insert, Memory.read, h, hl]
      · simp [Memory.erase, Memory.insert, Memory.read, h, hl, ih]

theorem read_insert_other (m : Memory) {a b : Nat} (v : Byte) (h : b ≠ a) :
    Memory.read (Memory.insert m a v) b = Memory.read m b := by
  induction m with
  | nil => simp [Memory.insert, Memory.read, h]
  | cons c m ih =>
    obtain ⟨k, x⟩ := c
    by_cases hl : a < k
    · simp [Memory.insert, Memory.read, h, hl]
    · simp [Memory.insert, Memory.read, hl, ih]

/-- Reading after a write of one byte: the byte at its address, the old byte everywhere else. -/
theorem read_write (m : Memory) (a b : Nat) (v : Byte) :
    Memory.read (Memory.write m a v) b = if b = a then v else Memory.read m b := by
  unfold Memory.write
  by_cases hv : v = 0#8
  · subst hv; rw [if_pos rfl, read_erase]
  · rw [if_neg hv]
    by_cases hb : b = a
    · subst hb; simp [read_insert_same]
    · rw [read_insert_other _ _ hb, read_erase, if_neg hb, if_neg hb]

/-! ### The canonical form -/

theorem wfFrom_mono {lo lo' : Nat} (h : lo' ≤ lo) {m : Memory} (hm : Memory.wfFrom lo m = true) :
    Memory.wfFrom lo' m = true := by
  cases m with
  | nil => rfl
  | cons c m =>
    obtain ⟨k, v⟩ := c
    simp only [Memory.wfFrom, Bool.and_eq_true, decide_eq_true_eq] at hm ⊢
    exact ⟨⟨h.trans hm.1.1, hm.1.2⟩, hm.2⟩

theorem wfFrom_erase {lo a : Nat} {m : Memory} (hm : Memory.wfFrom lo m = true) :
    Memory.wfFrom lo (Memory.erase m a) = true := by
  induction m generalizing lo with
  | nil => rfl
  | cons c m ih =>
    obtain ⟨k, v⟩ := c
    simp only [Memory.wfFrom, Bool.and_eq_true, decide_eq_true_eq] at hm
    by_cases h : a = k
    · simp only [Memory.erase, if_pos h]
      exact wfFrom_mono (by omega) (ih hm.2)
    · simp only [Memory.erase, if_neg h, Memory.wfFrom, Bool.and_eq_true, decide_eq_true_eq]
      exact ⟨hm.1, ih hm.2⟩

theorem wfFrom_insert {lo a : Nat} {m : Memory} {v : Byte} (hv : v ≠ 0#8) (ha : lo ≤ a)
    (hm : Memory.wfFrom lo (Memory.erase m a) = true) :
    Memory.wfFrom lo (Memory.insert (Memory.erase m a) a v) = true := by
  induction m generalizing lo with
  | nil => simp [Memory.erase, Memory.insert, Memory.wfFrom, ha, hv]
  | cons c m ih =>
    obtain ⟨k, x⟩ := c
    by_cases h : a = k
    · simp only [Memory.erase, if_pos h] at hm ⊢
      exact ih ha hm
    · simp only [Memory.erase, if_neg h, Memory.wfFrom, Bool.and_eq_true, decide_eq_true_eq] at hm
      by_cases hl : a < k
      · simp only [Memory.erase, if_neg h, Memory.insert, if_pos hl, Memory.wfFrom, Bool.and_eq_true,
          decide_eq_true_eq, bne_iff_ne, ne_eq]
        exact ⟨⟨ha, hv⟩, ⟨by omega, by simpa using hm.1.2⟩, hm.2⟩
      · simp only [Memory.erase, if_neg h, Memory.insert, if_neg hl, Memory.wfFrom, Bool.and_eq_true,
          decide_eq_true_eq]
        exact ⟨hm.1, ih (by omega) hm.2⟩

/-- A write of one byte keeps the canonical form. -/
theorem wf_write {m : Memory} (a : Nat) (v : Byte) (hm : Memory.wf m = true) :
    Memory.wf (Memory.write m a v) = true := by
  unfold Memory.write
  split
  · exact wfFrom_erase hm
  · exact wfFrom_insert ‹_› (Nat.zero_le a) (wfFrom_erase hm)

/-- A store of any width keeps the canonical form. -/
theorem wf_writeLE {m : Memory} (a : Nat) (v : Word) (w : Width) (hm : Memory.wf m = true) :
    Memory.wf (Memory.writeLE m a v w) = true := by
  cases w with
  | byte => exact wf_write _ _ hm
  | half => exact wf_write _ _ (wf_write _ _ hm)
  | word => exact wf_write _ _ (wf_write _ _ (wf_write _ _ (wf_write _ _ hm)))

theorem wfFrom_ofBytes (a : Nat) (bs : List Byte) : Memory.wfFrom a (Memory.ofBytes a bs) = true := by
  induction bs generalizing a with
  | nil => rfl
  | cons b bs ih =>
    unfold Memory.ofBytes
    split
    · exact wfFrom_mono (Nat.le_succ a) (ih (a + 1))
    · rename_i h
      simp [Memory.wfFrom, h, ih]

/-- The memory of an image is canonical. -/
theorem wf_ofBytes (a : Nat) (bs : List Byte) : Memory.wf (Memory.ofBytes a bs) = true :=
  wfFrom_mono (Nat.zero_le a) (wfFrom_ofBytes a bs)

/-- The reset memory is canonical. -/
theorem wf_reset : Memory.wf State.reset.mem = true := rfl

/-! ### The bounds of the bank -/

theorem mem_erase {m : Memory} {a : Nat} {c : Host.Cell} (h : c ∈ Memory.erase m a) : c ∈ m := by
  induction m with
  | nil => exact h
  | cons d m ih =>
    obtain ⟨k, v⟩ := d
    unfold Memory.erase at h
    split at h
    · exact List.mem_cons_of_mem _ (ih h)
    · rcases List.mem_cons.1 h with rfl | h
      · exact List.mem_cons_self
      · exact List.mem_cons_of_mem _ (ih h)

theorem mem_insert {m : Memory} {a : Nat} {v : Byte} {c : Host.Cell} (h : c ∈ Memory.insert m a v) :
    c = (a, v) ∨ c ∈ m := by
  induction m with
  | nil => simpa [Memory.insert] using h
  | cons d m ih =>
    obtain ⟨k, x⟩ := d
    unfold Memory.insert at h
    split at h
    · exact List.mem_cons.1 h
    · rcases List.mem_cons.1 h with rfl | h
      · exact .inr List.mem_cons_self
      · exact (ih h).imp_right (List.mem_cons_of_mem _)

/-- A write inside the window keeps every listed address inside it. -/
theorem inBank_write {cfg : Config} {m : Memory} {a : Nat} (v : Byte) (hm : Memory.inBank cfg m = true)
    (lo : pmemBase ≤ a) (hi : a < pmemBase + cfg.pmemSize) : Memory.inBank cfg (Memory.write m a v) = true := by
  unfold Memory.inBank at hm ⊢
  rw [List.all_eq_true] at hm ⊢
  intro c hc
  unfold Memory.write at hc
  split at hc
  · exact hm c (mem_erase hc)
  · rcases mem_insert hc with rfl | hc
    · simp [lo, hi]
    · exact hm c (mem_erase hc)

theorem inWindow_iff (cfg : Config) (addr : Word) (n : Nat) :
    inWindow cfg addr n = true ↔ pmemBase ≤ addr.toNat ∧ addr.toNat + n ≤ pmemBase + cfg.pmemSize := by
  simp [inWindow]

/-- A store that passes the window test keeps every listed address inside the window. -/
theorem inBank_writeLE {cfg : Config} {m : Memory} {addr : Word} (v : Word) (w : Width)
    (hm : Memory.inBank cfg m = true) (hw : inWindow cfg addr w.bytes = true) :
    Memory.inBank cfg (Memory.writeLE m addr.toNat v w) = true := by
  obtain ⟨lo, hi⟩ := (inWindow_iff _ _ _).1 hw
  cases w with
  | byte => exact inBank_write _ hm lo (by simp only [Width.bytes] at hi; omega)
  | half =>
    simp only [Width.bytes] at hi
    exact inBank_write _ (inBank_write _ hm lo (by omega)) (by omega) (by omega)
  | word =>
    simp only [Width.bytes] at hi
    exact inBank_write _ (inBank_write _ (inBank_write _ (inBank_write _ hm lo (by omega)) (by omega) (by omega))
      (by omega) (by omega)) (by omega) (by omega)

theorem mem_ofBytes {a : Nat} {bs : List Byte} {c : Host.Cell} (h : c ∈ Memory.ofBytes a bs) :
    a ≤ c.1 ∧ c.1 < a + bs.length := by
  induction bs generalizing a with
  | nil => simp [Memory.ofBytes] at h
  | cons b bs ih =>
    unfold Memory.ofBytes at h
    simp only [List.length_cons]
    split at h
    · have := ih h; omega
    · rcases List.mem_cons.1 h with rfl | h
      · dsimp only; omega
      · have := ih h; omega

end Sys2Proof.Machine
end

