-- ==== Sys2Proof/Laws/Operands.lean ====
section
/-! SUPPORT. The small lemmas of the comparisons, the fields of the decoded operands, the shift amounts and the
results of the divisions. -/

namespace Sys2Proof.Machine

/-! ### Comparisons -/

theorem lessSigned_iff (a b : Word) : lessSigned a b = true ↔ a.toInt < b.toInt := by simp [lessSigned]

theorem lessUnsigned_iff (a b : Word) : lessUnsigned a b = true ↔ a.toNat < b.toNat := by simp [lessUnsigned]

theorem boolWord_lessSigned (a b : Word) :
    boolWord (lessSigned a b) = if a.toInt < b.toInt then 1#32 else 0#32 := by
  by_cases h : a.toInt < b.toInt <;> simp [boolWord, lessSigned, h]

theorem boolWord_lessUnsigned (a b : Word) :
    boolWord (lessUnsigned a b) = if a.toNat < b.toNat then 1#32 else 0#32 := by
  by_cases h : a.toNat < b.toNat <;> simp [boolWord, lessUnsigned, h]

/-! ### Decoded operands -/

section
variable (rd rs1 rs2 : Reg) (imm : BitVec 12) (k : BitVec 20) (f : BitVec 3) (s : State)

@[simp] theorem operandsI_rd : (operandsI rd rs1 imm s).rd = rd := rfl
@[simp] theorem operandsI_src1 : (operandsI rd rs1 imm s).src1 = s.readReg rs1 := rfl
@[simp] theorem operandsI_imm : (operandsI rd rs1 imm s).imm = sext imm := rfl
@[simp] theorem operandsR_rd : (operandsR rd rs1 rs2 s).rd = rd := rfl
@[simp] theorem operandsR_src1 : (operandsR rd rs1 rs2 s).src1 = s.readReg rs1 := rfl
@[simp] theorem operandsR_src2 : (operandsR rd rs1 rs2 s).src2 = s.readReg rs2 := rfl
@[simp] theorem operandsS_src1 : (operandsS rs1 rs2 imm s).src1 = s.readReg rs1 := rfl
@[simp] theorem operandsS_src2 : (operandsS rs1 rs2 imm s).src2 = s.readReg rs2 := rfl
@[simp] theorem operandsS_imm : (operandsS rs1 rs2 imm s).imm = immS imm := rfl
@[simp] theorem operandsB_src1 : (operandsB f rs1 rs2 imm s).src1 = s.readReg rs1 := rfl
@[simp] theorem operandsB_src2 : (operandsB f rs1 rs2 imm s).src2 = s.readReg rs2 := rfl
@[simp] theorem operandsB_imm : (operandsB f rs1 rs2 imm s).imm = immB s.cfg.bImmLayout f rs1 rs2 imm := rfl
@[simp] theorem operandsU_rd : (operandsU rd k).rd = rd := rfl
@[simp] theorem operandsU_imm : (operandsU rd k).imm = sext k <<< 12 := rfl
@[simp] theorem operandsJ_rd : (operandsJ rd k).rd = rd := rfl
@[simp] theorem operandsJ_imm : (operandsJ rd k).imm = immJ k := rfl

/-- The shift amount of an immediate shift is its shamt field. -/
theorem immShamt_operandsI (funct7 : BitVec 7) (shamt : BitVec 5) :
    (operandsI rd rs1 (funct7 ++ shamt) s).immShamt = shamt.toNat := by
  unfold DecodedOperands.immShamt
  rw [operandsI_imm]
  congr 1
  apply BitVec.eq_of_getLsbD_eq
  intro i hi
  simp only [BitVec.getLsbD_extractLsb', sext, BitVec.getLsbD_signExtend, getLsbD_append_7_5]
  interval_cases i <;> simp

/-- The shift amount of a register shift is src2 modulo 32. -/
theorem regShamt_operandsR : (operandsR rd rs1 rs2 s).regShamt = (s.readReg rs2).toNat % 32 := by
  simp [DecodedOperands.regShamt]

end

/-! ### Divisions by case -/

theorem divSigned_zero (a : Word) : divSigned a 0#32 = 0xFFFFFFFF#32 := rfl

theorem divSigned_overflow : divSigned 0x80000000#32 0xFFFFFFFF#32 = 0x80000000#32 := rfl

theorem divSigned_plain {a b : Word} (hb : b ≠ 0#32) (h : ¬(a = 0x80000000#32 ∧ b = 0xFFFFFFFF#32)) :
    divSigned a b = BitVec.ofInt 32 (a.toInt.tdiv b.toInt) := by
  have hd : divOverflows a b = false := by simpa [divOverflows] using h
  simp [divSigned, hb, hd]

theorem remSigned_zero (a : Word) : remSigned a 0#32 = a := rfl

theorem remSigned_overflow : remSigned 0x80000000#32 0xFFFFFFFF#32 = 0#32 := rfl

theorem remSigned_plain {a b : Word} (hb : b ≠ 0#32) (h : ¬(a = 0x80000000#32 ∧ b = 0xFFFFFFFF#32)) :
    remSigned a b = BitVec.ofInt 32 (a.toInt - b.toInt * a.toInt.tdiv b.toInt) := by
  have hd : divOverflows a b = false := by simpa [divOverflows] using h
  simp [remSigned, hb, hd]

theorem divUnsigned_plain {a b : Word} (hb : b ≠ 0#32) : divUnsigned a b = BitVec.ofNat 32 (a.toNat / b.toNat) :=
  if_neg hb

theorem remUnsigned_plain {a b : Word} (hb : b ≠ 0#32) : remUnsigned a b = BitVec.ofNat 32 (a.toNat % b.toNat) :=
  if_neg hb

end Sys2Proof.Machine
end

