-- ==== Sys2Proof/Laws/Ops.lean ====
section
/-! SUPPORT. For each shared operation one lemma that says all it can do. -/

namespace Sys2Proof.Machine

/-! ### Memory accesses -/

theorem memRead_eq (s : State) (addr : Word) (w : Width) :
    (inWindow s.cfg addr w.bytes = true ∧ s.memRead addr w = .ok (Memory.readLE s.mem addr.toNat w)) ∨
    (inWindow s.cfg addr w.bytes = false ∧ s.memRead addr w = .error (.outOfBoundAccess addr)) := by
  unfold State.memRead
  cases inWindow s.cfg addr w.bytes <;> simp

theorem memWrite_eq (s : State) (addr : Word) (w : Width) (v : Word) :
    (inWindow s.cfg addr w.bytes = true ∧
      s.memWrite addr w v = .ok { s with mem := Memory.writeLE s.mem addr.toNat v w }) ∨
    (inWindow s.cfg addr w.bytes = false ∧ s.memWrite addr w v = .error (.outOfBoundAccess addr)) := by
  unfold State.memWrite
  cases inWindow s.cfg addr w.bytes <;> simp

/-- Reading a byte after a store: the byte of the value inside the stored range, the old byte outside. -/
theorem read_writeLE (m : Memory) (a : Nat) (v : Word) (w : Width) (b : Nat) :
    Memory.read (Memory.writeLE m a v w) b =
      if a ≤ b ∧ b < a + w.bytes then byteOf v (b - a) else Memory.read m b := by
  cases w with
  | byte =>
    simp only [Memory.writeLE, read_write]
    by_cases h : b = a
    · subst h; simp [Width.bytes]
    · rw [if_neg h, if_neg (by simp only [Width.bytes]; omega)]
  | half =>
    simp only [Memory.writeLE, read_write]
    by_cases h1 : b = a + 1
    · subst h1; simp [Width.bytes]
    · by_cases h : b = a
      · subst h; simp [Width.bytes]
      · rw [if_neg h1, if_neg h, if_neg (by simp only [Width.bytes]; omega)]
  | word =>
    simp only [Memory.writeLE, read_write]
    by_cases h3 : b = a + 3
    · subst h3; simp [Width.bytes]
    · by_cases h2 : b = a + 2
      · subst h2; simp [Width.bytes]
      · by_cases h1 : b = a + 1
        · subst h1; simp [Width.bytes]
        · by_cases h : b = a
          · subst h; simp [Width.bytes]
          · rw [if_neg h3, if_neg h2, if_neg h1, if_neg h, if_neg (by simp only [Width.bytes]; omega)]

/-- A word is its four bytes, the most significant first. -/
theorem append_bytes (v : Word) :
    byteOf v 3 ++ (byteOf v 2 ++ (byteOf v 1 ++ byteOf v 0)) = v := by
  apply BitVec.eq_of_getLsbD_eq
  intro i hi
  refine (BitVec.getLsbD_append (x := byteOf v 3)
    (y := (byteOf v 2 ++ (byteOf v 1 ++ byteOf v 0) : BitVec (8 + (8 + 8))))).trans ?_
  rw [BitVec.getLsbD_append, BitVec.getLsbD_append]
  simp only [byteOf, BitVec.getLsbD_extractLsb']
  interval_cases i <;> simp

/-- A word read after a word written at the same address is that word. -/
theorem readLE_writeLE_word (m : Memory) (a : Nat) (v : Word) :
    Memory.readLE (Memory.writeLE m a v .word) a .word = v := by
  refine Eq.trans ?_ (append_bytes v)
  simp [Memory.readLE, read_writeLE, Width.bytes]

/-! ### The shapes of effects -/

/-- A committed effect that did not halt leaves slot 0 at 0 and counts one step. -/
theorem commit_zeroSlot (e : Effect) : e.commit.regs[0] = 0#32 := by simp

/-- What `writeResult` answers. -/
theorem writeResult_spec (o : DecodedOperands) (v : Word) (s : State) :
    ∃ t, writeResult o v s = .next t ∧
      (∀ r, t.readReg r = if r = o.rd ∧ o.rd ≠ 0#5 then v else s.readReg r) ∧
      t.pc = s.pc + 4#32 ∧ t.mem = s.mem ∧ t.session = s.session ∧ t.cfg = s.cfg ∧ t.regs[0] = 0#32 ∧
      (s.retired ≠ BitVec.allOnes 64 → t.retired = s.retired + 1#64) :=
  ⟨_, rfl, fun r => by simp [readReg_writeSlot], by simp, by simp, by simp [commit_session], by simp,
    commit_zeroSlot _, fun h => commit_retired h⟩

/-- What `jumpAndLink` answers. -/
theorem jumpAndLink_spec (o : DecodedOperands) (target : Word) (s : State) :
    ∃ t, jumpAndLink o target s = .next t ∧
      (∀ r, t.readReg r = if r = o.rd ∧ o.rd ≠ 0#5 then s.pc + 4#32 else s.readReg r) ∧
      t.pc = target ∧ t.mem = s.mem ∧ t.session = s.session ∧ t.cfg = s.cfg ∧ t.regs[0] = 0#32 ∧
      (s.retired ≠ BitVec.allOnes 64 → t.retired = s.retired + 1#64) :=
  ⟨_, rfl, fun r => by simp [readReg_writeSlot, State.snpc], by simp, by simp, by simp [commit_session], by simp,
    commit_zeroSlot _, fun h => commit_retired h⟩

/-- What `branchIf` answers. -/
theorem branchIf_spec (c : Bool) (o : DecodedOperands) (s : State) :
    ∃ t, branchIf c o s = .next t ∧ (∀ r, t.readReg r = s.readReg r) ∧
      t.pc = (if c then s.pc + o.imm else s.pc + 4#32) ∧ t.mem = s.mem ∧ t.session = s.session ∧ t.cfg = s.cfg ∧
      t.regs[0] = 0#32 ∧ (s.retired ≠ BitVec.allOnes 64 → t.retired = s.retired + 1#64) := by
  cases c
  · exact ⟨_, rfl, fun r => by simp, by simp, by simp, by simp [commit_session], by simp, commit_zeroSlot _,
      fun h => commit_retired h⟩
  · exact ⟨_, rfl, fun r => by simp, by simp, by simp, by simp [commit_session], by simp, commit_zeroSlot _,
      fun h => commit_retired h⟩

/-- What `loadResult` answers: the value of the bytes when the window test holds, else the fault. -/
theorem loadResult_spec (o : DecodedOperands) (w : Width) (ext : Word → Word) (s : State) :
    (inWindow s.cfg o.address w.bytes = true ∧
      loadResult o w ext s = writeResult o (ext (Memory.readLE s.mem o.address.toNat w)) s) ∨
    (inWindow s.cfg o.address w.bytes = false ∧
      loadResult o w ext s = .next (s.takeFault (.outOfBoundAccess o.address))) := by
  rcases memRead_eq s o.address w with ⟨hw, h⟩ | ⟨hw, h⟩
  · exact .inl ⟨hw, by simp [loadResult, Effect.load, h, writeResult]⟩
  · exact .inr ⟨hw, by simp [loadResult, Effect.load, h, finish]⟩

/-- What `storeOperand` answers: the bytes stored when the window test holds, else the fault. -/
theorem storeOperand_spec (o : DecodedOperands) (w : Width) (s : State) :
    (inWindow s.cfg o.address w.bytes = true ∧
      ∃ t, storeOperand o w s = .next t ∧ t.mem = Memory.writeLE s.mem o.address.toNat o.src2 w ∧
        (∀ r, t.readReg r = s.readReg r) ∧ t.pc = s.pc + 4#32 ∧ t.session = s.session ∧ t.cfg = s.cfg ∧
        t.regs[0] = 0#32 ∧ (s.retired ≠ BitVec.allOnes 64 → t.retired = s.retired + 1#64)) ∨
    (inWindow s.cfg o.address w.bytes = false ∧
      storeOperand o w s = .next (s.takeFault (.outOfBoundAccess o.address))) := by
  rcases memWrite_eq s o.address w o.src2 with ⟨hw, h⟩ | ⟨hw, h⟩
  · refine .inl ⟨hw, Effect.commit { Effect.start s with
      st := { s with mem := Memory.writeLE s.mem o.address.toNat o.src2 w } }, ?_, by simp, fun r => ?_, by simp,
      by simp [commit_session], by simp, commit_zeroSlot _, fun h => commit_retired h⟩
    · simp [storeOperand, Effect.store, h, finish]
    · exact (readReg_commit _ r).trans (readReg_eq_of_regs rfl r)
  · exact .inr ⟨hw, by simp [storeOperand, Effect.store, h, finish]⟩

/-- What EBREAK answers. -/
theorem execEbreak_spec (s : State) :
    ∃ t, execEbreak s = .next t ∧ (∀ r, t.readReg r = s.readReg r) ∧ t.pc = s.pc + 4#32 ∧ t.mem = s.mem ∧
      t.session = .ended s.pc (s.readReg haltRetReg) ∧ t.cfg = s.cfg ∧ t.regs[0] = 0#32 ∧
      (s.retired ≠ BitVec.allOnes 64 → t.retired = s.retired + 1#64) :=
  ⟨_, rfl, fun r => by simp, by simp, by simp, by simp [commit_session], by simp, commit_zeroSlot _,
    fun h => commit_retired h⟩

/-! ### The executer step -/

/-- What one pass of the run loop answers. -/
theorem execute_cases (s : State) :
    (∃ f, s.fetch = .error f ∧ s.execute = .next (s.takeFault f)) ∨
    (∃ w e, s.fetch = .ok w ∧ decode s.cfg w = .error e ∧
      s.execute = .next (s.takeFault (.invalidInstruction s.pc))) ∨
    (∃ w i, s.fetch = .ok w ∧ decode s.cfg w = .ok i ∧ s.execute = exec i s) := by
  unfold State.execute
  cases hf : s.fetch with
  | error f => exact .inl ⟨f, rfl, rfl⟩
  | ok w =>
    cases hd : decode s.cfg w with
    | error e => exact .inr (.inl ⟨w, e, rfl, hd, by simp [hd]⟩)
    | ok i => exact .inr (.inr ⟨w, i, rfl, hd, by simp [hd]⟩)

end Sys2Proof.Machine
end

