-- ==== Sys2Proof/Laws/PerInstr.lean ====
section
/-! SUPPORT. Lemmas per instruction: the word of every instruction is accepted by its own registry row. -/

/-- The encoded word of the instruction is accepted by an entry of the whole registry that stands for its row. -/
def Sys2Proof.Laws.EncodesItsRow.Statement (i : Sys2Proof.Instr) : Prop :=
  ∃ e ∈ Sys2Proof.registry true, e.row.op = i.op ∧ e.compiled.accepts (Sys2Proof.encode i) = true

theorem Sys2Proof.Laws.EncodesItsRow.auipc (rd : Sys2Proof.Reg) (imm : BitVec 20) : Statement (.auipc rd imm) :=
  ⟨(Sys2Proof.registry true)[0], List.getElem_mem _, rfl, Sys2Proof.accepts_encodeUJ (key := 0x00000017#32) rfl⟩

theorem Sys2Proof.Laws.EncodesItsRow.lui (rd : Sys2Proof.Reg) (imm : BitVec 20) : Statement (.lui rd imm) :=
  ⟨(Sys2Proof.registry true)[1], List.getElem_mem _, rfl, Sys2Proof.accepts_encodeUJ (key := 0x00000037#32) rfl⟩

theorem Sys2Proof.Laws.EncodesItsRow.addi (rd rs1 : Sys2Proof.Reg) (imm : BitVec 12) : Statement (.addi rd rs1 imm) :=
  ⟨(Sys2Proof.registry true)[2], List.getElem_mem _, rfl, Sys2Proof.accepts_encodeI (key := 0x00000013#32) rfl⟩

theorem Sys2Proof.Laws.EncodesItsRow.slti (rd rs1 : Sys2Proof.Reg) (imm : BitVec 12) : Statement (.slti rd rs1 imm) :=
  ⟨(Sys2Proof.registry true)[3], List.getElem_mem _, rfl, Sys2Proof.accepts_encodeI (key := 0x00002013#32) rfl⟩

theorem Sys2Proof.Laws.EncodesItsRow.sltiu (rd rs1 : Sys2Proof.Reg) (imm : BitVec 12) : Statement (.sltiu rd rs1 imm) :=
  ⟨(Sys2Proof.registry true)[4], List.getElem_mem _, rfl, Sys2Proof.accepts_encodeI (key := 0x00003013#32) rfl⟩

theorem Sys2Proof.Laws.EncodesItsRow.xori (rd rs1 : Sys2Proof.Reg) (imm : BitVec 12) : Statement (.xori rd rs1 imm) :=
  ⟨(Sys2Proof.registry true)[5], List.getElem_mem _, rfl, Sys2Proof.accepts_encodeI (key := 0x00004013#32) rfl⟩

theorem Sys2Proof.Laws.EncodesItsRow.ori (rd rs1 : Sys2Proof.Reg) (imm : BitVec 12) : Statement (.ori rd rs1 imm) :=
  ⟨(Sys2Proof.registry true)[6], List.getElem_mem _, rfl, Sys2Proof.accepts_encodeI (key := 0x00006013#32) rfl⟩

theorem Sys2Proof.Laws.EncodesItsRow.andi (rd rs1 : Sys2Proof.Reg) (imm : BitVec 12) : Statement (.andi rd rs1 imm) :=
  ⟨(Sys2Proof.registry true)[7], List.getElem_mem _, rfl, Sys2Proof.accepts_encodeI (key := 0x00007013#32) rfl⟩

theorem Sys2Proof.Laws.EncodesItsRow.slli (rd rs1 : Sys2Proof.Reg) (shamt : BitVec 5) : Statement (.slli rd rs1 shamt) :=
  ⟨(Sys2Proof.registry true)[8], List.getElem_mem _, rfl, Sys2Proof.accepts_encodeR (key := 0x00001013#32) rfl⟩

theorem Sys2Proof.Laws.EncodesItsRow.srli (rd rs1 : Sys2Proof.Reg) (shamt : BitVec 5) : Statement (.srli rd rs1 shamt) :=
  ⟨(Sys2Proof.registry true)[9], List.getElem_mem _, rfl, Sys2Proof.accepts_encodeR (key := 0x00005013#32) rfl⟩

theorem Sys2Proof.Laws.EncodesItsRow.srai (rd rs1 : Sys2Proof.Reg) (shamt : BitVec 5) : Statement (.srai rd rs1 shamt) :=
  ⟨(Sys2Proof.registry true)[10], List.getElem_mem _, rfl, Sys2Proof.accepts_encodeR (key := 0x40005013#32) rfl⟩

theorem Sys2Proof.Laws.EncodesItsRow.add (rd rs1 rs2 : Sys2Proof.Reg) : Statement (.add rd rs1 rs2) :=
  ⟨(Sys2Proof.registry true)[11], List.getElem_mem _, rfl, Sys2Proof.accepts_encodeR (key := 0x00000033#32) rfl⟩

theorem Sys2Proof.Laws.EncodesItsRow.sub (rd rs1 rs2 : Sys2Proof.Reg) : Statement (.sub rd rs1 rs2) :=
  ⟨(Sys2Proof.registry true)[12], List.getElem_mem _, rfl, Sys2Proof.accepts_encodeR (key := 0x40000033#32) rfl⟩

theorem Sys2Proof.Laws.EncodesItsRow.sll (rd rs1 rs2 : Sys2Proof.Reg) : Statement (.sll rd rs1 rs2) :=
  ⟨(Sys2Proof.registry true)[13], List.getElem_mem _, rfl, Sys2Proof.accepts_encodeR (key := 0x00001033#32) rfl⟩

theorem Sys2Proof.Laws.EncodesItsRow.slt (rd rs1 rs2 : Sys2Proof.Reg) : Statement (.slt rd rs1 rs2) :=
  ⟨(Sys2Proof.registry true)[14], List.getElem_mem _, rfl, Sys2Proof.accepts_encodeR (key := 0x00002033#32) rfl⟩

theorem Sys2Proof.Laws.EncodesItsRow.sltu (rd rs1 rs2 : Sys2Proof.Reg) : Statement (.sltu rd rs1 rs2) :=
  ⟨(Sys2Proof.registry true)[15], List.getElem_mem _, rfl, Sys2Proof.accepts_encodeR (key := 0x00003033#32) rfl⟩

theorem Sys2Proof.Laws.EncodesItsRow.xor (rd rs1 rs2 : Sys2Proof.Reg) : Statement (.xor rd rs1 rs2) :=
  ⟨(Sys2Proof.registry true)[16], List.getElem_mem _, rfl, Sys2Proof.accepts_encodeR (key := 0x00004033#32) rfl⟩

theorem Sys2Proof.Laws.EncodesItsRow.srl (rd rs1 rs2 : Sys2Proof.Reg) : Statement (.srl rd rs1 rs2) :=
  ⟨(Sys2Proof.registry true)[17], List.getElem_mem _, rfl, Sys2Proof.accepts_encodeR (key := 0x00005033#32) rfl⟩

theorem Sys2Proof.Laws.EncodesItsRow.sra (rd rs1 rs2 : Sys2Proof.Reg) : Statement (.sra rd rs1 rs2) :=
  ⟨(Sys2Proof.registry true)[18], List.getElem_mem _, rfl, Sys2Proof.accepts_encodeR (key := 0x40005033#32) rfl⟩

theorem Sys2Proof.Laws.EncodesItsRow.or (rd rs1 rs2 : Sys2Proof.Reg) : Statement (.or rd rs1 rs2) :=
  ⟨(Sys2Proof.registry true)[19], List.getElem_mem _, rfl, Sys2Proof.accepts_encodeR (key := 0x00006033#32) rfl⟩

theorem Sys2Proof.Laws.EncodesItsRow.and (rd rs1 rs2 : Sys2Proof.Reg) : Statement (.and rd rs1 rs2) :=
  ⟨(Sys2Proof.registry true)[20], List.getElem_mem _, rfl, Sys2Proof.accepts_encodeR (key := 0x00007033#32) rfl⟩

theorem Sys2Proof.Laws.EncodesItsRow.jal (rd : Sys2Proof.Reg) (imm : BitVec 20) : Statement (.jal rd imm) :=
  ⟨(Sys2Proof.registry true)[21], List.getElem_mem _, rfl, Sys2Proof.accepts_encodeUJ (key := 0x0000006F#32) rfl⟩

theorem Sys2Proof.Laws.EncodesItsRow.jalr (rd rs1 : Sys2Proof.Reg) (imm : BitVec 12) : Statement (.jalr rd rs1 imm) :=
  ⟨(Sys2Proof.registry true)[22], List.getElem_mem _, rfl, Sys2Proof.accepts_encodeI (key := 0x00000067#32) rfl⟩

theorem Sys2Proof.Laws.EncodesItsRow.beq (rs1 rs2 : Sys2Proof.Reg) (imm : BitVec 12) : Statement (.beq rs1 rs2 imm) :=
  ⟨(Sys2Proof.registry true)[23], List.getElem_mem _, rfl, Sys2Proof.accepts_encodeSB (key := 0x00000063#32) rfl⟩

theorem Sys2Proof.Laws.EncodesItsRow.bne (rs1 rs2 : Sys2Proof.Reg) (imm : BitVec 12) : Statement (.bne rs1 rs2 imm) :=
  ⟨(Sys2Proof.registry true)[24], List.getElem_mem _, rfl, Sys2Proof.accepts_encodeSB (key := 0x00001063#32) rfl⟩

theorem Sys2Proof.Laws.EncodesItsRow.blt (rs1 rs2 : Sys2Proof.Reg) (imm : BitVec 12) : Statement (.blt rs1 rs2 imm) :=
  ⟨(Sys2Proof.registry true)[25], List.getElem_mem _, rfl, Sys2Proof.accepts_encodeSB (key := 0x00004063#32) rfl⟩

theorem Sys2Proof.Laws.EncodesItsRow.bge (rs1 rs2 : Sys2Proof.Reg) (imm : BitVec 12) : Statement (.bge rs1 rs2 imm) :=
  ⟨(Sys2Proof.registry true)[26], List.getElem_mem _, rfl, Sys2Proof.accepts_encodeSB (key := 0x00005063#32) rfl⟩

theorem Sys2Proof.Laws.EncodesItsRow.bltu (rs1 rs2 : Sys2Proof.Reg) (imm : BitVec 12) : Statement (.bltu rs1 rs2 imm) :=
  ⟨(Sys2Proof.registry true)[27], List.getElem_mem _, rfl, Sys2Proof.accepts_encodeSB (key := 0x00006063#32) rfl⟩

theorem Sys2Proof.Laws.EncodesItsRow.bgeu (rs1 rs2 : Sys2Proof.Reg) (imm : BitVec 12) : Statement (.bgeu rs1 rs2 imm) :=
  ⟨(Sys2Proof.registry true)[28], List.getElem_mem _, rfl, Sys2Proof.accepts_encodeSB (key := 0x00007063#32) rfl⟩

theorem Sys2Proof.Laws.EncodesItsRow.lb (rd rs1 : Sys2Proof.Reg) (imm : BitVec 12) : Statement (.lb rd rs1 imm) :=
  ⟨(Sys2Proof.registry true)[29], List.getElem_mem _, rfl, Sys2Proof.accepts_encodeI (key := 0x00000003#32) rfl⟩

theorem Sys2Proof.Laws.EncodesItsRow.lh (rd rs1 : Sys2Proof.Reg) (imm : BitVec 12) : Statement (.lh rd rs1 imm) :=
  ⟨(Sys2Proof.registry true)[30], List.getElem_mem _, rfl, Sys2Proof.accepts_encodeI (key := 0x00001003#32) rfl⟩

theorem Sys2Proof.Laws.EncodesItsRow.lw (rd rs1 : Sys2Proof.Reg) (imm : BitVec 12) : Statement (.lw rd rs1 imm) :=
  ⟨(Sys2Proof.registry true)[31], List.getElem_mem _, rfl, Sys2Proof.accepts_encodeI (key := 0x00002003#32) rfl⟩

theorem Sys2Proof.Laws.EncodesItsRow.lbu (rd rs1 : Sys2Proof.Reg) (imm : BitVec 12) : Statement (.lbu rd rs1 imm) :=
  ⟨(Sys2Proof.registry true)[32], List.getElem_mem _, rfl, Sys2Proof.accepts_encodeI (key := 0x00004003#32) rfl⟩

theorem Sys2Proof.Laws.EncodesItsRow.lhu (rd rs1 : Sys2Proof.Reg) (imm : BitVec 12) : Statement (.lhu rd rs1 imm) :=
  ⟨(Sys2Proof.registry true)[33], List.getElem_mem _, rfl, Sys2Proof.accepts_encodeI (key := 0x00005003#32) rfl⟩

theorem Sys2Proof.Laws.EncodesItsRow.sb (rs1 rs2 : Sys2Proof.Reg) (imm : BitVec 12) : Statement (.sb rs1 rs2 imm) :=
  ⟨(Sys2Proof.registry true)[34], List.getElem_mem _, rfl, Sys2Proof.accepts_encodeSB (key := 0x00000023#32) rfl⟩

theorem Sys2Proof.Laws.EncodesItsRow.sh (rs1 rs2 : Sys2Proof.Reg) (imm : BitVec 12) : Statement (.sh rs1 rs2 imm) :=
  ⟨(Sys2Proof.registry true)[35], List.getElem_mem _, rfl, Sys2Proof.accepts_encodeSB (key := 0x00001023#32) rfl⟩

theorem Sys2Proof.Laws.EncodesItsRow.sw (rs1 rs2 : Sys2Proof.Reg) (imm : BitVec 12) : Statement (.sw rs1 rs2 imm) :=
  ⟨(Sys2Proof.registry true)[36], List.getElem_mem _, rfl, Sys2Proof.accepts_encodeSB (key := 0x00002023#32) rfl⟩

theorem Sys2Proof.Laws.EncodesItsRow.ebreak : Statement .ebreak :=
  ⟨(Sys2Proof.registry true)[37], List.getElem_mem _, rfl, by decide⟩

theorem Sys2Proof.Laws.EncodesItsRow.mul (rd rs1 rs2 : Sys2Proof.Reg) : Statement (.mul rd rs1 rs2) :=
  ⟨(Sys2Proof.registry true)[38], List.getElem_mem _, rfl, Sys2Proof.accepts_encodeR (key := 0x02000033#32) rfl⟩

theorem Sys2Proof.Laws.EncodesItsRow.mulh (rd rs1 rs2 : Sys2Proof.Reg) : Statement (.mulh rd rs1 rs2) :=
  ⟨(Sys2Proof.registry true)[39], List.getElem_mem _, rfl, Sys2Proof.accepts_encodeR (key := 0x02001033#32) rfl⟩

theorem Sys2Proof.Laws.EncodesItsRow.mulhsu (rd rs1 rs2 : Sys2Proof.Reg) : Statement (.mulhsu rd rs1 rs2) :=
  ⟨(Sys2Proof.registry true)[40], List.getElem_mem _, rfl, Sys2Proof.accepts_encodeR (key := 0x02002033#32) rfl⟩

theorem Sys2Proof.Laws.EncodesItsRow.mulhu (rd rs1 rs2 : Sys2Proof.Reg) : Statement (.mulhu rd rs1 rs2) :=
  ⟨(Sys2Proof.registry true)[41], List.getElem_mem _, rfl, Sys2Proof.accepts_encodeR (key := 0x02003033#32) rfl⟩

theorem Sys2Proof.Laws.EncodesItsRow.div (rd rs1 rs2 : Sys2Proof.Reg) : Statement (.div rd rs1 rs2) :=
  ⟨(Sys2Proof.registry true)[42], List.getElem_mem _, rfl, Sys2Proof.accepts_encodeR (key := 0x02004033#32) rfl⟩

theorem Sys2Proof.Laws.EncodesItsRow.divu (rd rs1 rs2 : Sys2Proof.Reg) : Statement (.divu rd rs1 rs2) :=
  ⟨(Sys2Proof.registry true)[43], List.getElem_mem _, rfl, Sys2Proof.accepts_encodeR (key := 0x02005033#32) rfl⟩

theorem Sys2Proof.Laws.EncodesItsRow.rem (rd rs1 rs2 : Sys2Proof.Reg) : Statement (.rem rd rs1 rs2) :=
  ⟨(Sys2Proof.registry true)[44], List.getElem_mem _, rfl, Sys2Proof.accepts_encodeR (key := 0x02006033#32) rfl⟩

theorem Sys2Proof.Laws.EncodesItsRow.remu (rd rs1 rs2 : Sys2Proof.Reg) : Statement (.remu rd rs1 rs2) :=
  ⟨(Sys2Proof.registry true)[45], List.getElem_mem _, rfl, Sys2Proof.accepts_encodeR (key := 0x02007033#32) rfl⟩
end

