-- ==== Sys2Proof/Laws/Reports.lean ====
section
/-! SUPPORT. What the diagnostic shows, byte by byte and word by word, and what a run reports by how it ended. -/

namespace Sys2Proof.Machine

@[simp] theorem shownBytes_length (s : State) (a n : Nat) : (s.shownBytes a n).length = n := by
  induction n generalizing a with
  | zero => rfl
  | succ n ih => simp [State.shownBytes, ih]

/-- The k-th shown byte is the byte at `a + k` when it is in the window. -/
theorem shownBytes_getElem? (s : State) {a n k : Nat} (hk : k < n) :
    (s.shownBytes a n)[k]? =
      some (if pmemBase ≤ a + k ∧ a + k < pmemBase + s.cfg.pmemSize then some (s.byteAt (a + k)) else none) := by
  induction n generalizing a k with
  | zero => omega
  | succ n ih =>
    cases k with
    | zero => simp [State.shownBytes]
    | succ k =>
      have h : a + 1 + k = a + (k + 1) := by omega
      simpa [State.shownBytes, h] using ih (a := a + 1) (k := k) (by omega)

/-- A word is shown exactly when its four bytes are in the window, and then it is made of them. -/
theorem shownWord_eq (s : State) (a : Nat) :
    s.shownWord a = if pmemBase ≤ a ∧ a + 4 ≤ pmemBase + s.cfg.pmemSize then
      some (s.byteAt (a + 3) ++ (s.byteAt (a + 2) ++ (s.byteAt (a + 1) ++ s.byteAt a))) else none := rfl

/-- A run in a terminal state reports the advisory and nothing else. -/
theorem runReports_terminal {s : State} (h : s.session.terminal = true) (n : BitVec 64) :
    s.runReports n = [.advisory] := if_pos h

/-- Any other run reports how it ended and the retired count. -/
theorem runReports_next {s t : State} {n : BitVec 64} (h : s.session.terminal = false) (hr : s.run n = .next t) :
    s.runReports n = t.endReports ++ [.retired t.retired] := by
  simp [State.runReports, h, hr]

end Sys2Proof.Machine
end

