-- ==== Sys2Proof/Tests/Slice0.lean ====
section
/-! SUPPORT. The model's own tests. Expected results come from spec/95_test_vectors.md (S1 to S9, PT1 to PT14, OD1 to
OD18, the tables of its section 2.3, P1 to P9) or are worked out by hand from the rule a test names. At the end, a
witness for every obligation that has hypotheses. -/

namespace Sys2Proof.Tests

open Sys2Proof Sys2Proof.Machine Sys2Proof.Claim

/-! ### Helpers -/

/-- The parameters of 95_test_vectors.md: `PMEM_SIZE` = 0x1000. -/
def small : Config := { pmemSize := 0x1000, extM := false, bImmLayout := .rv32 }
/-- The same with `EXT_M`. -/
def smallM : Config := { small with extM := true }
/-- The same with the other layout of the branch immediate. -/
def smallDoc : Config := { small with bImmLayout := .docLiteral }

/-- A state in Stop with a word at its pc, some registers set, and the bytes 80 FF 7F 01 of the load vectors at
0x8000_0010 when `bytes` asks for them. -/
def start (cfg : Config) (regs : List (Nat × Word)) (w : Word) (pc : Word := 0x80000000#32) (bytes : Bool := false) :
    State :=
  let mem := if bytes then Memory.writeLE [] 0x80000010 0x017FFF80#32 .word else []
  { State.reset with
    cfg := cfg
    pc := pc
    mem := Memory.writeLE mem pc.toNat w .word
    regs := regs.foldl (fun v p => v.setIfInBounds p.1 p.2) State.reset.regs }

/-- The outcome is this next state. -/
def answers (o : Host.Outcome State Fault Refusal) (t : State) : Bool :=
  match o with
  | .next s => decide (s = t)
  | .fault _ => false
  | .refused _ => false

/-- One step writes `v` into slot `r`, goes to `pc` and counts one, and does nothing else. -/
def writes (s : State) (r : Reg) (v pc : Word) : Bool :=
  answers (step s) { s with regs := s.regs.set r.toNat v r.isLt, pc := pc, retired := s.retired + 1#64 }

/-- One step goes to `pc` and counts one, and does nothing else. -/
def moves (s : State) (pc : Word) : Bool := answers (step s) { s with pc := pc, retired := s.retired + 1#64 }

/-- One step sets these bytes, goes to pc + 4 and counts one, and does nothing else. -/
def stores (s : State) (cells : List Host.Cell) : Bool :=
  answers (step s) { s with
    mem := cells.foldl (fun m c => Memory.write m c.1 c.2) s.mem, pc := s.pc + 4#32, retired := s.retired + 1#64 }

/-- One step aborts with this reason and does nothing else. -/
def aborts (s : State) (f : Fault) : Bool :=
  answers (step s) { s with session := .abort s.pc 0xFFFFFFFF#32 f }

/-! ### WellFormed -/

theorem test_wellFormed_refuses_mul_without_EXT_M : (Instr.mul 10#5 11#5 12#5).wellFormed small = false := by decide
theorem test_wellFormed_admits_mul_with_EXT_M : (Instr.mul 10#5 11#5 12#5).wellFormed smallM = true := by decide
theorem test_wellFormed_admits_add : (Instr.add 10#5 11#5 12#5).wellFormed small = true := by decide

/-! ### Decoding: words written out from the formats of 30_encoding.md R62 and each instruction's opcode and functs -/

theorem test_decode_upper_and_jumps :
    decodeTableWord 32 0b00010010001101000101_01010_0010111 = some (.auipc 10#5 0x12345#20) ∧
    decodeTableWord 32 0b00010010001101000101_01010_0110111 = some (.lui 10#5 0x12345#20) ∧
    decodeTableWord 32 0b11111111110111111111_00000_1101111 = some (.jal 0#5 0xFFDFF#20) ∧
    decodeTableWord 32 0b000000000100_01011_000_00001_1100111 = some (.jalr 1#5 11#5 4#12) := by decide

theorem test_decode_immediate :
    decodeTableWord 32 0b111111111110_01011_000_01010_0010011 = some (.addi 10#5 11#5 0xFFE#12) ∧
    decodeTableWord 32 0b111111111110_01011_010_01010_0010011 = some (.slti 10#5 11#5 0xFFE#12) ∧
    decodeTableWord 32 0b111111111110_01011_011_01010_0010011 = some (.sltiu 10#5 11#5 0xFFE#12) ∧
    decodeTableWord 32 0b111111111110_01011_100_01010_0010011 = some (.xori 10#5 11#5 0xFFE#12) ∧
    decodeTableWord 32 0b111111111110_01011_110_01010_0010011 = some (.ori 10#5 11#5 0xFFE#12) ∧
    decodeTableWord 32 0b111111111110_01011_111_01010_0010011 = some (.andi 10#5 11#5 0xFFE#12) ∧
    decodeTableWord 32 0b0000000_11110_01011_001_01010_0010011 = some (.slli 10#5 11#5 30#5) ∧
    decodeTableWord 32 0b0000000_11110_01011_101_01010_0010011 = some (.srli 10#5 11#5 30#5) ∧
    decodeTableWord 32 0b0100000_11110_01011_101_01010_0010011 = some (.srai 10#5 11#5 30#5) := by decide

theorem test_decode_register :
    decodeTableWord 32 0b0000000_01100_01011_000_01010_0110011 = some (.add 10#5 11#5 12#5) ∧
    decodeTableWord 32 0b0100000_01100_01011_000_01010_0110011 = some (.sub 10#5 11#5 12#5) ∧
    decodeTableWord 32 0b0000000_01100_01011_001_01010_0110011 = some (.sll 10#5 11#5 12#5) ∧
    decodeTableWord 32 0b0000000_01100_01011_010_01010_0110011 = some (.slt 10#5 11#5 12#5) ∧
    decodeTableWord 32 0b0000000_01100_01011_011_01010_0110011 = some (.sltu 10#5 11#5 12#5) ∧
    decodeTableWord 32 0b0000000_01100_01011_100_01010_0110011 = some (.xor 10#5 11#5 12#5) ∧
    decodeTableWord 32 0b0000000_01100_01011_101_01010_0110011 = some (.srl 10#5 11#5 12#5) ∧
    decodeTableWord 32 0b0100000_01100_01011_101_01010_0110011 = some (.sra 10#5 11#5 12#5) ∧
    decodeTableWord 32 0b0000000_01100_01011_110_01010_0110011 = some (.or 10#5 11#5 12#5) ∧
    decodeTableWord 32 0b0000000_01100_01011_111_01010_0110011 = some (.and 10#5 11#5 12#5) := by decide

theorem test_decode_branch :
    decodeTableWord 32 0b1111111_00000_00101_000_11001_1100011 = some (.beq 5#5 0#5 0b1111111_11001#12) ∧
    decodeTableWord 32 0b1111111_00000_00101_001_11001_1100011 = some (.bne 5#5 0#5 0b1111111_11001#12) ∧
    decodeTableWord 32 0b1111111_00000_00101_100_11001_1100011 = some (.blt 5#5 0#5 0b1111111_11001#12) ∧
    decodeTableWord 32 0b1111111_00000_00101_101_11001_1100011 = some (.bge 5#5 0#5 0b1111111_11001#12) ∧
    decodeTableWord 32 0b1111111_00000_00101_110_11001_1100011 = some (.bltu 5#5 0#5 0b1111111_11001#12) ∧
    decodeTableWord 32 0b1111111_00000_00101_111_11001_1100011 = some (.bgeu 5#5 0#5 0b1111111_11001#12) := by decide

theorem test_decode_memory_and_halt :
    decodeTableWord 32 0b111111111110_01011_000_01010_0000011 = some (.lb 10#5 11#5 0xFFE#12) ∧
    decodeTableWord 32 0b111111111110_01011_001_01010_0000011 = some (.lh 10#5 11#5 0xFFE#12) ∧
    decodeTableWord 32 0b111111111110_01011_010_01010_0000011 = some (.lw 10#5 11#5 0xFFE#12) ∧
    decodeTableWord 32 0b111111111110_01011_100_01010_0000011 = some (.lbu 10#5 11#5 0xFFE#12) ∧
    decodeTableWord 32 0b111111111110_01011_101_01010_0000011 = some (.lhu 10#5 11#5 0xFFE#12) ∧
    decodeTableWord 32 0b1111111_01100_01011_000_11110_0100011 = some (.sb 11#5 12#5 0b1111111_11110#12) ∧
    decodeTableWord 32 0b1111111_01100_01011_001_11110_0100011 = some (.sh 11#5 12#5 0b1111111_11110#12) ∧
    decodeTableWord 32 0b1111111_01100_01011_010_11110_0100011 = some (.sw 11#5 12#5 0b1111111_11110#12) ∧
    decodeTableWord 32 0b0000000_00001_00000_000_00000_1110011 = some .ebreak := by decide

theorem test_decode_mulDiv :
    decodeTableWord 32 0b0000001_01100_01011_000_01010_0110011 = some (.mul 10#5 11#5 12#5) ∧
    decodeTableWord 32 0b0000001_01100_01011_001_01010_0110011 = some (.mulh 10#5 11#5 12#5) ∧
    decodeTableWord 32 0b0000001_01100_01011_010_01010_0110011 = some (.mulhsu 10#5 11#5 12#5) ∧
    decodeTableWord 32 0b0000001_01100_01011_011_01010_0110011 = some (.mulhu 10#5 11#5 12#5) ∧
    decodeTableWord 32 0b0000001_01100_01011_100_01010_0110011 = some (.div 10#5 11#5 12#5) ∧
    decodeTableWord 32 0b0000001_01100_01011_101_01010_0110011 = some (.divu 10#5 11#5 12#5) ∧
    decodeTableWord 32 0b0000001_01100_01011_110_01010_0110011 = some (.rem 10#5 11#5 12#5) ∧
    decodeTableWord 32 0b0000001_01100_01011_111_01010_0110011 = some (.remu 10#5 11#5 12#5) := by decide

/-- The M rows are in the registry only under `EXT_M` (R98). -/
theorem test_decode_mul_without_EXT_M :
    decode small 0x02C58533#32 = .error (.invalidInstruction 0x02C58533#32) := by decide

/-- Fewer than 4 bytes are no instruction (R60). -/
theorem test_decode_truncated : decodeBytes small [0x73#8, 0x00#8, 0x10#8] = .error (.truncated 3) := by decide

/-- The whole step runs on a placed word (95_test_vectors.md, `mul` under `EXT_M` and `lui`). -/
theorem test_withFetchWord :
    writes (State.reset.withFetchWord 32 0x12345537) 10#5 0x12345000#32 0x80000004#32 = true ∧
    (State.reset.withFetchWord 32 0x02C58533).cfg.extM = true := by decide

/-! ### Pattern matcher (95_test_vectors.md 2.1) -/

theorem test_pattern_compile :
    compilePattern "1?" = .ok ⟨0x1#64, 0x1#64, 1⟩ ∧ compilePattern "??10" = .ok ⟨0x2#64, 0x3#64, 0⟩ ∧
    compilePattern "1010 ????" = .ok ⟨0xA#64, 0xF#64, 4⟩ ∧ compilePattern "1?1?" = .ok ⟨0x5#64, 0x5#64, 1⟩ ∧
    compilePattern "????" = .ok ⟨0x0#64, 0x0#64, 4⟩ ∧ compilePattern "" = .ok ⟨0x0#64, 0x0#64, 0⟩ ∧
    compilePattern "0000000 ????? ????? 000 ????? 01100 11" = .ok ⟨0x33#64, 0xFE00707F#64, 0⟩ ∧
    compilePattern "10x1" = .error (.badChar 'x' 2) ∧ compilePattern "1 0 x" = .error (.badChar 'x' 4) := by decide

/-- PT10 and PT11: 64 characters compile, 65 do not. -/
theorem test_pattern_length :
    compileScan (List.replicate 64 '1') 0 0#64 0#64 0 0 = .ok ⟨BitVec.allOnes 64, BitVec.allOnes 64, 0⟩ ∧
    compileScan (List.replicate 65 '1') 0 0#64 0#64 0 0 = .error (.tooLong 65) := by decide +kernel

/-- PT1, with 0b10 matching as the negative vector PT14 asks, and PT10: no word matches 64 ones. -/
theorem test_pattern_match :
    [0b10#32, 0b11#32, 0b110#32, 0b111#32].all (Compiled.accepts ⟨0x1#64, 0x1#64, 1⟩) = true ∧
    [0b00#32, 0b01#32, 0b100#32].any (Compiled.accepts ⟨0x1#64, 0x1#64, 1⟩) = false ∧
    Compiled.accepts ⟨BitVec.allOnes 64, BitVec.allOnes 64, 0⟩ 0xFFFFFFFF#32 = false := by decide

/-- A registry refuses a pattern that is not 32 characters long, and an overlapping pattern (R94, R97). -/
theorem test_registry_refuses :
    buildRegistry [⟨"1?", .N, .ebreak⟩] = .error (.notWordLength ⟨"1?", .N, .ebreak⟩ 2) ∧
    buildRegistry [⟨"????????????????????????????????", .N, .ebreak⟩,
        ⟨"00000000000000000000000000000000", .N, .ebreak⟩] =
      .error (.overlap ⟨"????????????????????????????????", .N, .ebreak⟩
        ⟨"00000000000000000000000000000000", .N, .ebreak⟩) := by decide +kernel

/-! ### Operands (95_test_vectors.md S2, S3, 2.2) -/

theorem test_signext :
    signext 0x1#32 1 = some 0xFFFFFFFF#32 ∧ signext 0x7FF#32 12 = some 0x7FF#32 ∧
    signext 0x107FF#32 12 = some 0x7FF#32 ∧ signext 0x800#32 12 = some 0xFFFFF800#32 ∧
    signext 0x80000001#32 32 = some 0x80000001#32 ∧ signext 0x1#32 0 = none ∧ signext 0x1#32 33 = none := by decide

/-- x[i] = 0x100 + i for i at least 1, as the operand vectors have it. -/
def numbered (cfg : Config) : State :=
  { State.reset with cfg := cfg, regs := (Vector.ofFn (n := 32) (fun i => BitVec.ofNat 32 (0x100 + i.val))).set 0 0#32 }

theorem test_operands_I_S :
    decodeOperands .I 0x80058513#32 (numbered small) = ⟨10#5, 0x10B#32, 0#32, 0xFFFFF800#32⟩ ∧
    decodeOperands .S 0xFEC5AFA3#32 (numbered small) = ⟨31#5, 0x10B#32, 0x10C#32, 0xFFFFFFFF#32⟩ ∧
    decodeOperands .S 0x80C59023#32 (numbered small) = ⟨0#5, 0x10B#32, 0x10C#32, 0xFFFFF800#32⟩ ∧
    decodeOperands .S 0x7E000FA3#32 (numbered small) = ⟨31#5, 0#32, 0#32, 0x7FF#32⟩ := by decide

theorem test_operands_B_rv32 :
    decodeOperands .B 0xFE029CE3#32 (numbered small) = ⟨25#5, 0x105#32, 0#32, 0xFFFFFFF8#32⟩ ∧
    decodeOperands .B 0x7E000FE3#32 (numbered small) = ⟨31#5, 0#32, 0#32, 0xFFE#32⟩ ∧
    decodeOperands .B 0x80000063#32 (numbered small) = ⟨0#5, 0#32, 0#32, 0xFFFFF000#32⟩ ∧
    decodeOperands .B 0x00B50863#32 (numbered small) = ⟨16#5, 0x10A#32, 0x10B#32, 0x10#32⟩ := by decide

theorem test_operands_B_doc_literal :
    (decodeOperands .B 0xFE029CE3#32 (numbered smallDoc)).imm = 0xFFF297E0#32 ∧
    (decodeOperands .B 0x7E000FE3#32 (numbered smallDoc)).imm = 0x000007E0#32 ∧
    (decodeOperands .B 0x80000063#32 (numbered smallDoc)).imm = 0xFFF00000#32 ∧
    (decodeOperands .B 0x00B50863#32 (numbered smallDoc)).imm = 0x0005080A#32 := by decide

theorem test_operands_U_J_R_N :
    decodeOperands .U 0xFFFFF517#32 (numbered small) = ⟨10#5, 0#32, 0#32, 0xFFFFF000#32⟩ ∧
    decodeOperands .J 0xFFDFF06F#32 (numbered small) = ⟨0#5, 0#32, 0#32, 0xFFFFFFFC#32⟩ ∧
    decodeOperands .J 0x800000EF#32 (numbered small) = ⟨1#5, 0#32, 0#32, 0xFFF00000#32⟩ ∧
    decodeOperands .J 0x7FFFF0EF#32 (numbered small) = ⟨1#5, 0#32, 0#32, 0x000FFFFE#32⟩ ∧
    decodeOperands .R 0x40C58533#32 (numbered small) = ⟨10#5, 0x10B#32, 0x10C#32, 0#32⟩ ∧
    decodeOperands .N 0x00100073#32 (numbered small) = ⟨0#5, 0#32, 0#32, 0#32⟩ := by decide

/-! ### One step of each instruction (95_test_vectors.md 2.3) -/

theorem test_auipc :
    writes (start small [] 0x00000297#32) 5#5 0x80000000#32 0x80000004#32 = true ∧
    writes (start small [] 0xFFFFF517#32) 10#5 0x7FFFF000#32 0x80000004#32 = true ∧
    writes (start small [] 0x80000517#32 (pc := 0x80000010#32)) 10#5 0x00000010#32 0x80000014#32 = true := by decide

theorem test_lui :
    writes (start small [] 0x12345537#32) 10#5 0x12345000#32 0x80000004#32 = true ∧
    writes (start small [] 0xFFFFF537#32) 10#5 0xFFFFF000#32 0x80000004#32 = true ∧
    moves (start small [] 0x12345037#32) 0x80000004#32 = true := by decide

theorem test_addi :
    writes (start small [(11, 0x5#32)] 0xFFF58513#32) 10#5 0x4#32 0x80000004#32 = true ∧
    writes (start small [(11, 0x7FFFFFFF#32)] 0x7FF58513#32) 10#5 0x800007FE#32 0x80000004#32 = true ∧
    writes (start small [(11, 0x0#32)] 0x80058513#32) 10#5 0xFFFFF800#32 0x80000004#32 = true ∧
    moves (start small [] 0x00000013#32) 0x80000004#32 = true := by decide

theorem test_slti :
    writes (start small [(11, 0xFFFFFFFE#32)] 0xFFF5A513#32) 10#5 0x1#32 0x80000004#32 = true ∧
    writes (start small [(11, 0x80000000#32)] 0x0005A513#32) 10#5 0x1#32 0x80000004#32 = true := by decide

theorem test_sltiu :
    writes (start small [(11, 0xFFFFFFFE#32)] 0xFFF5B513#32) 10#5 0x1#32 0x80000004#32 = true ∧
    writes (start small [(11, 0x0#32)] 0x0015B513#32) 10#5 0x1#32 0x80000004#32 = true := by decide

theorem test_xori :
    writes (start small [(11, 0x0F0F0F0F#32)] 0xFFF5C513#32) 10#5 0xF0F0F0F0#32 0x80000004#32 = true := by decide

theorem test_ori :
    writes (start small [(11, 0x0000000F#32)] 0x7F05E513#32) 10#5 0x000007FF#32 0x80000004#32 = true := by decide

theorem test_andi :
    writes (start small [(11, 0x12345678#32)] 0xF005F513#32) 10#5 0x12345600#32 0x80000004#32 = true := by decide

theorem test_slli :
    writes (start small [(11, 0x3#32)] 0x01F59513#32) 10#5 0x80000000#32 0x80000004#32 = true := by decide

theorem test_srli :
    writes (start small [(11, 0x80000000#32)] 0x0045D513#32) 10#5 0x08000000#32 0x80000004#32 = true := by decide

theorem test_srai :
    writes (start small [(11, 0x80000000#32)] 0x4045D513#32) 10#5 0xF8000000#32 0x80000004#32 = true ∧
    writes (start small [(11, 0x80000000#32)] 0x4005D513#32) 10#5 0x80000000#32 0x80000004#32 = true := by decide

theorem test_add :
    writes (start small [(11, 0xFFFFFFFF#32), (12, 0x1#32)] 0x00C58533#32) 10#5 0x0#32 0x80000004#32 ∧
    moves (start small [(11, 0x1#32), (12, 0x2#32)] 0x00C58033#32) 0x80000004#32 = true := by decide

theorem test_sub :
    writes (start small [(11, 0x0#32), (12, 0x1#32)] 0x40C58533#32) 10#5 0xFFFFFFFF#32 0x80000004#32 ∧
    writes (start small [(11, 0x80000000#32), (12, 0x1#32)] 0x40C58533#32) 10#5 0x7FFFFFFF#32 0x80000004#32 := by
  decide

theorem test_sll :
    writes (start small [(11, 0x1#32), (12, 0x00000021#32)] 0x00C59533#32) 10#5 0x2#32 0x80000004#32 := by
  decide

theorem test_slt :
    writes (start small [(11, 0xFFFFFFFF#32), (12, 0x0#32)] 0x00C5A533#32) 10#5 0x1#32 0x80000004#32 := by
  decide

theorem test_sltu :
    writes (start small [(11, 0xFFFFFFFF#32), (12, 0x0#32)] 0x00C5B533#32) 10#5 0x0#32 0x80000004#32 ∧
    writes (start small [(12, 0x7#32)] 0x00C03533#32) 10#5 0x1#32 0x80000004#32 = true := by decide

theorem test_xor :
    writes (start small [(11, 0xDEADBEEF#32)] 0x00B5C533#32) 10#5 0x0#32 0x80000004#32 = true := by decide

theorem test_srl :
    writes (start small [(11, 0xF0000000#32), (12, 0x00000024#32)] 0x00C5D533#32) 10#5 0x0F000000#32 0x80000004#32 := by
  decide

theorem test_sra :
    writes (start small [(11, 0xF0000000#32), (12, 0x00000024#32)] 0x40C5D533#32) 10#5 0xFF000000#32 0x80000004#32 := by
  decide

theorem test_or :
    writes (start small [(11, 0x000000F0#32), (12, 0x0000000F#32)] 0x00C5E533#32) 10#5 0x000000FF#32 0x80000004#32 := by
  decide

theorem test_and :
    writes (start small [(11, 0xFF00FF00#32), (12, 0x0FF00FF0#32)] 0x00C5F533#32) 10#5 0x0F000F00#32 0x80000004#32 := by
  decide

theorem test_jal :
    writes (start small [] 0x008000EF#32) 1#5 0x80000004#32 0x80000008#32 = true ∧
    moves (start small [] 0xFFDFF06F#32 (pc := 0x80000010#32)) 0x8000000C#32 = true ∧
    writes (start small [] 0x000000EF#32) 1#5 0x80000004#32 0x80000000#32 = true := by decide

theorem test_jalr :
    writes (start small [(11, 0x80000101#32)] 0x000580E7#32) 1#5 0x80000004#32 0x80000100#32 = true ∧
    writes (start small [(11, 0x80000020#32)] 0x004585E7#32) 11#5 0x80000004#32 0x80000024#32 = true ∧
    moves (start small [(1, 0x80000008#32)] 0x00008067#32) 0x80000008#32 = true ∧
    writes (start small [(11, 0x80000011#32)] 0xFFF580E7#32) 1#5 0x80000004#32 0x80000010#32 = true := by decide

theorem test_beq :
    moves (start small [(10, 0x5#32), (11, 0x5#32)] 0x00B50863#32) 0x80000010#32 = true ∧
    moves (start small [(10, 0x5#32), (11, 0x6#32)] 0x00B50863#32) 0x80000004#32 = true ∧
    moves (start small [] 0x7E000FE3#32) 0x80000FFE#32 = true ∧
    moves (start { small with pmemSize := 0x2000 } [] 0x80000063#32 (pc := 0x80001000#32)) 0x80000000#32 = true ∧
    moves (start small [] 0x00000363#32) 0x80000006#32 = true ∧
    moves (start smallDoc [(10, 0x5#32), (11, 0x5#32)] 0x00B50863#32) 0x8005080A#32 = true ∧
    moves (start smallDoc [] 0x00000463#32) 0x80000000#32 = true := by decide

theorem test_bne :
    moves (start small [(10, 0x1#32)] 0xFEB51CE3#32 (pc := 0x80000010#32)) 0x80000008#32 = true := by decide

theorem test_blt :
    moves (start small [(10, 0xFFFFFFFF#32), (11, 0x0#32)] 0x00B54463#32) 0x80000008#32 = true := by decide

theorem test_bge :
    moves (start small [(10, 0x0#32), (11, 0x0#32)] 0x00B55463#32) 0x80000008#32 = true ∧
    moves (start small [(10, 0x80000000#32), (11, 0x7FFFFFFF#32)] 0x00B55463#32) 0x80000004#32 = true := by decide

theorem test_bltu :
    moves (start small [(10, 0xFFFFFFFF#32), (11, 0x0#32)] 0x00B56463#32) 0x80000004#32 = true := by decide

theorem test_bgeu :
    moves (start small [(10, 0x80000000#32), (11, 0x7FFFFFFF#32)] 0x00B57463#32) 0x80000008#32 = true := by decide

theorem test_lb :
    writes (start small [(11, 0x80000010#32)] 0x00058503#32 (bytes := true)) 10#5 0xFFFFFF80#32 0x80000004#32 = true ∧
    writes (start small [(11, 0x80000010#32)] 0x00258503#32 (bytes := true)) 10#5 0x0000007F#32 0x80000004#32 := by
  decide

theorem test_lb_outOfBound :
    aborts (start small [(11, 0x80000000#32)] 0xFFF58503#32) (.outOfBoundAccess 0x7FFFFFFF#32) = true := by decide

theorem test_lh :
    writes (start small [(11, 0x80000010#32)] 0x00059503#32 (bytes := true)) 10#5 0xFFFFFF80#32 0x80000004#32 = true ∧
    writes (start small [(11, 0x80000010#32)] 0x00159503#32 (bytes := true)) 10#5 0x00007FFF#32 0x80000004#32 := by
  decide

theorem test_lw :
    writes (start small [(11, 0x80000010#32)] 0x0005A503#32 (bytes := true)) 10#5 0x017FFF80#32 0x80000004#32 = true ∧
    writes (start small [(11, 0x80000012#32)] 0xFFE5A503#32 (bytes := true)) 10#5 0x017FFF80#32 0x80000004#32 = true ∧
    moves (start small [(11, 0x80000010#32)] 0x0005A003#32 (bytes := true)) 0x80000004#32 = true ∧
    writes (start small [(11, 0x80000FFC#32)] 0x0005A503#32) 10#5 0x0#32 0x80000004#32 = true := by decide

theorem test_lw_outOfBound :
    aborts (start small [(11, 0x80000FFD#32)] 0x0005A503#32) (.outOfBoundAccess 0x80000FFD#32) = true ∧
    aborts (start small [(11, 0x7FFFFFFC#32)] 0x0005A503#32) (.outOfBoundAccess 0x7FFFFFFC#32) = true ∧
    aborts (start small [(11, 0x10000000#32)] 0x0005A003#32) (.outOfBoundAccess 0x10000000#32) = true := by decide

theorem test_lbu :
    writes (start small [(11, 0x80000010#32)] 0x0005C503#32 (bytes := true)) 10#5 0x00000080#32 0x80000004#32 := by
  decide

theorem test_lhu :
    writes (start small [(11, 0x80000010#32)] 0x0005D503#32 (bytes := true)) 10#5 0x0000FF80#32 0x80000004#32 = true ∧
    writes (start small [(11, 0x80000010#32)] 0x0025D503#32 (bytes := true)) 10#5 0x0000017F#32 0x80000004#32 := by
  decide

theorem test_sb :
    stores (start small [(11, 0x80000010#32), (12, 0x12345678#32)] 0x00C581A3#32)
      [(0x80000013, 0x78#8)] = true ∧
    stores (start small [(11, 0x80000FFF#32), (12, 0x000001FF#32)] 0x00C58023#32)
      [(0x80000FFF, 0xFF#8)] = true := by decide

theorem test_sb_outOfBound :
    aborts (start small [(11, 0x80001000#32), (12, 0x1#32)] 0x00C58023#32) (.outOfBoundAccess 0x80001000#32) := by
  decide

theorem test_sh :
    stores (start small [(11, 0x80000010#32), (12, 0x12345678#32)] 0x00C59023#32)
      [(0x80000010, 0x78#8), (0x80000011, 0x56#8)] = true ∧
    stores (start small [(11, 0x80000810#32), (12, 0x0000BEEF#32)] 0x80C59023#32)
      [(0x80000010, 0xEF#8), (0x80000011, 0xBE#8)] = true := by decide

theorem test_sw :
    stores (start small [(11, 0x80000010#32), (12, 0x12345678#32)] 0x00C5A023#32)
      [(0x80000010, 0x78#8), (0x80000011, 0x56#8), (0x80000012, 0x34#8), (0x80000013, 0x12#8)] = true ∧
    stores (start small [(11, 0x80000011#32), (12, 0xAABBCCDD#32)] 0xFEC5AFA3#32)
      [(0x80000010, 0xDD#8), (0x80000011, 0xCC#8), (0x80000012, 0xBB#8), (0x80000013, 0xAA#8)] = true ∧
    stores (start small [(11, 0x80000010#32)] 0x0005A023#32 (bytes := true))
      [(0x80000010, 0x00#8), (0x80000011, 0x00#8), (0x80000012, 0x00#8), (0x80000013, 0x00#8)] = true := by decide

theorem test_sw_outOfBound :
    aborts (start small [(11, 0x80000FFE#32), (12, 0x11223344#32)] 0x00C5A023#32) (.outOfBoundAccess 0x80000FFE#32) := by
  decide

theorem test_mul :
    writes (start smallM [(11, 0x7#32), (12, 0xFFFFFFFD#32)] 0x02C58533#32) 10#5 0xFFFFFFEB#32 0x80000004#32 ∧
    writes (start smallM [(11, 0x80000000#32), (12, 0x80000000#32)] 0x02C58533#32) 10#5 0x0#32 0x80000004#32 ∧
    writes (start smallM [(11, 0xFFFFFFFF#32), (12, 0xFFFFFFFF#32)] 0x02C58533#32) 10#5 0x1#32 0x80000004#32 := by
  decide

theorem test_mulh :
    writes (start smallM [(11, 0x7#32), (12, 0xFFFFFFFD#32)] 0x02C59533#32) 10#5 0xFFFFFFFF#32 0x80000004#32 ∧
    writes (start smallM [(11, 0x80000000#32), (12, 0x80000000#32)] 0x02C59533#32) 10#5 0x40000000#32 0x80000004#32 ∧
    writes (start smallM [(11, 0xFFFFFFFF#32), (12, 0xFFFFFFFF#32)] 0x02C59533#32) 10#5 0x0#32 0x80000004#32 := by
  decide

theorem test_mulhsu :
    writes (start smallM [(11, 0x7#32), (12, 0xFFFFFFFD#32)] 0x02C5A533#32) 10#5 0x6#32 0x80000004#32 ∧
    writes (start smallM [(11, 0xFFFFFFFF#32), (12, 0xFFFFFFFF#32)] 0x02C5A533#32) 10#5 0xFFFFFFFF#32 0x80000004#32 ∧
    writes (start smallM [(11, 0x80000000#32), (12, 0x80000000#32)] 0x02C5A533#32) 10#5 0xC0000000#32 0x80000004#32 := by
  decide

theorem test_mulhu :
    writes (start smallM [(11, 0x12345678#32), (12, 0x9ABCDEF0#32)] 0x02C5B533#32) 10#5 0x0B00EA4E#32 0x80000004#32 ∧
    writes (start smallM [(11, 0xFFFFFFFF#32), (12, 0xFFFFFFFF#32)] 0x02C5B533#32) 10#5 0xFFFFFFFE#32 0x80000004#32 := by
  decide

theorem test_div :
    writes (start smallM [(11, 0xFFFFFFF9#32), (12, 0x2#32)] 0x02C5C533#32) 10#5 0xFFFFFFFD#32 0x80000004#32 ∧
    writes (start smallM [(11, 0x7#32), (12, 0xFFFFFFFE#32)] 0x02C5C533#32) 10#5 0xFFFFFFFD#32 0x80000004#32 ∧
    writes (start smallM [(11, 0x5#32), (12, 0x0#32)] 0x02C5C533#32) 10#5 0xFFFFFFFF#32 0x80000004#32 ∧
    writes (start smallM [(11, 0x80000000#32), (12, 0xFFFFFFFF#32)] 0x02C5C533#32) 10#5 0x80000000#32 0x80000004#32 := by
  decide

theorem test_divu :
    writes (start smallM [(11, 0x7#32), (12, 0x2#32)] 0x02C5D533#32) 10#5 0x3#32 0x80000004#32 ∧
    writes (start smallM [(11, 0xFFFFFFF9#32), (12, 0x2#32)] 0x02C5D533#32) 10#5 0x7FFFFFFC#32 0x80000004#32 ∧
    writes (start smallM [(11, 0x5#32), (12, 0x0#32)] 0x02C5D533#32) 10#5 0xFFFFFFFF#32 0x80000004#32 ∧
    writes (start smallM [(11, 0x80000000#32), (12, 0xFFFFFFFF#32)] 0x02C5D533#32) 10#5 0x0#32 0x80000004#32 := by
  decide

theorem test_rem :
    writes (start smallM [(11, 0xFFFFFFF9#32), (12, 0x2#32)] 0x02C5E533#32) 10#5 0xFFFFFFFF#32 0x80000004#32 ∧
    writes (start smallM [(11, 0x7#32), (12, 0xFFFFFFFE#32)] 0x02C5E533#32) 10#5 0x1#32 0x80000004#32 ∧
    writes (start smallM [(11, 0x5#32), (12, 0x0#32)] 0x02C5E533#32) 10#5 0x5#32 0x80000004#32 ∧
    writes (start smallM [(11, 0x80000000#32), (12, 0xFFFFFFFF#32)] 0x02C5E533#32) 10#5 0x0#32 0x80000004#32 := by
  decide

theorem test_remu :
    writes (start smallM [(11, 0xFFFFFFF9#32), (12, 0x2#32)] 0x02C5F533#32) 10#5 0x1#32 0x80000004#32 ∧
    writes (start smallM [(11, 0xFFFFFFF9#32), (12, 0xFFFFFFFE#32)] 0x02C5F533#32) 10#5 0xFFFFFFF9#32 0x80000004#32 ∧
    writes (start smallM [(11, 0x5#32), (12, 0x0#32)] 0x02C5F533#32) 10#5 0x5#32 0x80000004#32 := by
  decide


/-- EBREAK, code 0xFFFF_FFFF at pc 0x8000_000C: the third vector of the halt table. -/
theorem test_ebreak :
    answers (step (start small [(10, 0xFFFFFFFF#32)] 0x00100073#32 (pc := 0x8000000C#32)))
      { start small [(10, 0xFFFFFFFF#32)] 0x00100073#32 (pc := 0x8000000C#32) with
        pc := 0x80000010#32, retired := 1#64, session := .ended 0x8000000C#32 0xFFFFFFFF#32 } = true := by decide

/-- The illegal words of the halt table: ecall, fence, mret, wfi, rdcycle, all zeros, all ones, c.li, ld. -/
theorem test_illegal_words_abort :
    [0x00000073#32, 0x0000000F#32, 0x30200073#32, 0x10500073#32, 0xC0002573#32, 0x0#32, 0xFFFFFFFF#32,
      0x00004501#32, 0x00003503#32].all
      (fun w => aborts (start small [] w) (.invalidInstruction 0x80000000#32)) = true := by decide +kernel

/-- Two reserved functs, a CSR word, `mul` without `EXT_M`, fence.i: the rest of the halt table. -/
theorem test_reserved_words_abort :
    [0x40002033#32, 0x40001013#32, 0x00102073#32, 0x02C58533#32, 0x0000100F#32].all
      (fun w => aborts (start small [] w) (.invalidInstruction 0x80000000#32)) = true := by decide +kernel

/-- The fetch faults come first: one byte past the last fetch address, and below the window (R42, R45; P8b). -/
theorem test_fetch_faults :
    aborts { State.reset with cfg := small, pc := 0x80000FFE#32 } (.outOfBoundAccess 0x80000FFE#32) = true ∧
    aborts { State.reset with cfg := small, pc := 0x7FFFFFFC#32 } (.outOfBoundAccess 0x7FFFFFFC#32) = true ∧
    answers (step (start small [] 0x00100073#32 (pc := 0x80000FFC#32)))
      { start small [] 0x00100073#32 (pc := 0x80000FFC#32) with
        pc := 0x80001000#32, retired := 1#64, session := .ended 0x80000FFC#32 0#32 } = true := by decide

/-! ### Host calls (95_test_vectors.md P9) -/

/-- A session made from four image bytes, the EBREAK word, and the state it starts in. -/
def ebreakImage : List Byte := [0x73#8, 0x00#8, 0x10#8, 0x00#8]

theorem test_init_loads_image :
    State.init small (Vector.replicate 32 7#32) ebreakImage = .ok
      { State.reset with
        cfg := small, mem := [(0x80000000, 0x73#8), (0x80000002, 0x10#8)]
        regs := (Vector.replicate 32 7#32).set 0 0#32 } := by decide

/-- SV6: an image one byte too long is refused. -/
theorem test_init_refuses_long_image :
    State.init { small with pmemSize := 4 } (Vector.replicate 32 0#32) (ebreakImage ++ [0#8])
      = .error (.imageTooLarge 5) := by decide

/-- SV3: `run(0)` leaves a fresh session in Stop. SV1: a run in a terminal state does nothing. SV5: quit. -/
theorem test_run_zero_and_terminal :
    answers (State.reset.run 0#64) State.reset = true ∧
    answers ({ State.reset with session := .ended 0#32 0#32 }.run 5#64)
      { State.reset with session := .ended 0#32 0#32 } = true ∧
    State.reset.hostQuit.session = .quit ∧ answers (State.reset.hostQuit.run 5#64) State.reset.hostQuit = true := by
  decide

/-- `run(5)` of a one-word program ends at its EBREAK with one step retired. -/
theorem test_run_ends_at_ebreak :
    answers ((start small [] 0x00100073#32).run 5#64)
      { start small [] 0x00100073#32 with
        pc := 0x80000004#32, retired := 1#64, session := .ended 0x80000000#32 0#32 } = true := by decide

/-- SV7, SV8 and the empty read past the window's end. -/
theorem test_introspection :
    State.reset.readRegister 32 = .error (.badRegister 32) ∧
    (start small [] 0x800015B7#32).readMemory 0x80000000#32 4 = .ok [0xB7#8, 0x15#8, 0x00#8, 0x80#8] ∧
    (start small [] 0x800015B7#32).readMemory 0x80001000#32 1 = .error (.outOfBoundAccess 0x80001000#32) ∧
    (start small [] 0x800015B7#32).readMemory 0x80001000#32 0 = .ok [] := by decide

/-- The diagnostic of the word 0x7FD0_006F at the start of a bank of 6 bytes: bytes and words outside the window are
not shown (R236, D26), the word reads as the fetch would, and both causes are given. -/
theorem test_diagnostic :
    ({ start small [] 0x7FD0006F#32 with
        cfg := { small with pmemSize := 6 }, session := .abort resetPc haltRetMax (.invalidInstruction resetPc) }
      ).diagnostic = some
        { pc := 0x80000000#32
          bytes := [some 0x6F#8, some 0x00#8, some 0xD0#8, some 0x7F#8, some 0x00#8, some 0x00#8, none, none]
          words := [some 0x7FD0006F#32, none]
          causes := [.notImplemented, .implementedIncorrectly] } := by decide

/-- The halt report is good for the code 0 only (R237). -/
theorem test_haltReport :
    ({ State.reset with session := .ended resetPc 0#32 }).haltReport = some (resetPc, 0#32, true) ∧
    ({ State.reset with session := .ended resetPc 1#32 }).haltReport = some (resetPc, 1#32, false) := by decide

/-- The reports of `run(1)`: SV1's advisory, a halt with the code 3, a load at 0x1000_0000 (P5), and `run(0)`. -/
theorem test_runReports :
    ({ State.reset with session := .ended resetPc 0#32 }).runReports 1#64 = [.advisory] ∧
    (start small [(10, 3#32)] 0x00100073#32).runReports 1#64 = [.halted 0x80000000#32 3#32 false, .retired 1#64] ∧
    (start small [(11, 0x10000000#32)] 0x0005A503#32).runReports 1#64
      = [.outOfBoundAccess 0x10000000#32, .retired 0#64] ∧
    (start small [] 0x00000013#32).runReports 0#64 = [.retired 0#64] := by decide

/-! ### Memory -/

/-- Writing the value an unlisted address reads as takes the entry out, so equal memories are equal lists. -/
theorem test_memory_canonical :
    Memory.write (Memory.write [] 0x80000001 0x55#8) 0x80000001 0#8 = [] ∧
    Memory.write (Memory.write [] 0x80000001 0x55#8) 0x80000000 0x11#8
      = [(0x80000000, 0x11#8), (0x80000001, 0x55#8)] := by decide

/-- The free value is drawn only at 2^64 - 1: there the draw is counted and everything else is done. -/
theorem test_retire_at_max :
    ({ State.reset with retired := BitVec.allOnes 64 }.retire).draws = 1 ∧
    ({ State.reset with retired := BitVec.allOnes 64 }.retire).pc = resetPc ∧
    ({ State.reset with retired := 0xFFFFFFFFFFFFFFFE#64 }.retire).retired = BitVec.allOnes 64 := by
  refine ⟨rfl, rfl, ?_⟩
  decide

/-! ### Witnesses: concrete inputs that meet the hypotheses of each statement -/

/-- The counter clause of every result statement: a state below 2^64 - 1. -/
theorem witness_Retired : State.reset.retired ≠ BitVec.allOnes 64 := by decide

theorem witness_DivisionAndProductLaws :
    (10#5 : Reg) ≠ 0#5 ∧ (numbered smallM).readReg 12#5 ≠ 0#32 ∧
    ¬((numbered smallM).readReg 11#5 = 0x80000000#32 ∧ (numbered smallM).readReg 12#5 = 0xFFFFFFFF#32) := by decide

/-- Taken and not taken, for each of the six conditions, on x1 to x2 or on x1 to x1. -/
theorem witness_BranchResults :
    (∃ a b : Word, a = b) ∧ (∃ a b : Word, ¬a = b) ∧ (∃ a b : Word, a ≠ b) ∧ (∃ a b : Word, ¬a ≠ b) ∧
    (0x80000000#32 : Word).toInt < (0#32 : Word).toInt ∧ ¬(0#32 : Word).toInt < (0x80000000#32 : Word).toInt ∧
    (0#32 : Word).toInt ≥ (0x80000000#32 : Word).toInt ∧ ¬(0x80000000#32 : Word).toInt ≥ (0#32 : Word).toInt ∧
    (0#32 : Word).toNat < (0x80000000#32 : Word).toNat ∧ ¬(0x80000000#32 : Word).toNat < (0#32 : Word).toNat ∧
    (0x80000000#32 : Word).toNat ≥ (0#32 : Word).toNat ∧ ¬(0#32 : Word).toNat ≥ (0x80000000#32 : Word).toNat :=
  ⟨⟨0, 0, rfl⟩, ⟨0, 1, by decide⟩, ⟨0, 1, by decide⟩, ⟨0, 0, by decide⟩, by decide, by decide, by decide, by decide,
    by decide, by decide, by decide, by decide⟩

/-- The last load of each width in the window and the next address, for x11 as base and the immediate 0. -/
theorem witness_LoadResults :
    inWindow small ((start small [(11, 0x80000FFC#32)] 0#32).readReg 11#5
      + immOfI (encode (.lw 10#5 11#5 0#12))) 4 = true ∧
    inWindow small ((start small [(11, 0x80000FFD#32)] 0#32).readReg 11#5
      + immOfI (encode (.lw 10#5 11#5 0#12))) 4 = false ∧
    inWindow small ((start small [(11, 0x80000FFF#32)] 0#32).readReg 11#5
      + immOfI (encode (.lb 10#5 11#5 0#12))) 1 = true ∧
    inWindow small ((start small [(11, 0x80001000#32)] 0#32).readReg 11#5
      + immOfI (encode (.lb 10#5 11#5 0#12))) 1 = false ∧
    inWindow small ((start small [(11, 0x80000FFE#32)] 0#32).readReg 11#5
      + immOfI (encode (.lhu 10#5 11#5 0#12))) 2 = true ∧
    inWindow small ((start small [(11, 0x80000FFF#32)] 0#32).readReg 11#5
      + immOfI (encode (.lhu 10#5 11#5 0#12))) 2 = false := by decide

theorem witness_StoreResults :
    inWindow small ((start small [(11, 0x80000FFC#32)] 0#32).readReg 11#5
      + immOfS (encode (.sw 11#5 12#5 0#12))) 4 = true ∧
    inWindow small ((start small [(11, 0x80000FFD#32)] 0#32).readReg 11#5
      + immOfS (encode (.sw 11#5 12#5 0#12))) 4 = false ∧
    inWindow small ((start small [(11, 0x80000FFE#32)] 0#32).readReg 11#5
      + immOfS (encode (.sh 11#5 12#5 0#12))) 2 = true ∧
    inWindow small ((start small [(11, 0x80000FFF#32)] 0#32).readReg 11#5
      + immOfS (encode (.sh 11#5 12#5 0#12))) 2 = false ∧
    inWindow small ((start small [(11, 0x80000FFF#32)] 0#32).readReg 11#5
      + immOfS (encode (.sb 11#5 12#5 0#12))) 1 = true ∧
    inWindow small ((start small [(11, 0x80001000#32)] 0#32).readReg 11#5
      + immOfS (encode (.sb 11#5 12#5 0#12))) 1 = false := by decide

theorem witness_StoreIsSeenByFetch :
    ∃ t, exec (.sw 11#5 12#5 0#12) (start small [(11, 0x80000FFC#32)] 0#32) = .next t ∧
      inWindow small ((start small [(11, 0x80000FFC#32)] 0#32).readReg 11#5
        + immOfS (encode (.sw 11#5 12#5 0#12))) 4 = true := ⟨_, rfl, by decide⟩

/-- The state that halts in one step. -/
def halting : State := start small [(10, 3#32)] 0x00100073#32
/-- It meets the hypotheses of OnlyEbreakEnds, of StepRunsTheDecodedInstruction and of the first case of
StepMovesTheSession. -/
theorem witness_OnlyEbreakEnds :
    halting.session.terminal = false ∧
    ∃ t, step halting = .next t ∧ t.session = .ended 0x80000000#32 3#32 := ⟨by decide, _, rfl, by decide⟩

theorem witness_FetchAndDecodeFaults :
    State.reset.session.terminal = false ∧
    inWindow small ({ State.reset with cfg := small, pc := 0x80000FFD#32 } : State).pc 4 = false ∧
    (start small [] 0x00000073#32).fetch = .ok 0x00000073#32 ∧
    resolve (registry (start small [] 0x00000073#32).cfg.extM) 0x00000073#32 = none := by decide

/-- The smallest and the largest bank the constraint admits; the last byte of a bank, and one past it. -/
theorem witness_WindowHoldsEveryByte :
    ({ small with pmemSize := 4 } : Config).ok = true ∧ ({ small with pmemSize := 0x80000000 } : Config).ok = true ∧
    0 < 1 ∧ inWindow small 0x80000FFF#32 1 = true ∧ inWindow small 0x80001000#32 1 = false := by decide

/-- Each width at its last address, and one past it. -/
theorem witness_MemReadIsLittleEndian :
    inWindow small 0x80000FFF#32 Width.byte.bytes = true ∧ inWindow small 0x80001000#32 Width.byte.bytes = false ∧
    inWindow small 0x80000FFE#32 Width.half.bytes = true ∧ inWindow small 0x80000FFF#32 Width.half.bytes = false ∧
    inWindow small 0x80000FFC#32 Width.word.bytes = true ∧ inWindow small 0x80000FFD#32 Width.word.bytes = false := by
  decide

theorem witness_MemWriteStoresItsBytes :
    inWindow small 0x80000000#32 Width.word.bytes = true ∧ inWindow small 0x7FFFFFFF#32 Width.byte.bytes = false := by
  decide

theorem witness_ReadAfterWrite :
    ∃ t, (start small [] 0#32).memWrite 0x80000FFE#32 .half 0x1234ABCD#32 = .ok t := ⟨_, rfl⟩

theorem witness_MixedWidthReads :
    small.ok = true ∧ ∃ t, (start small [] 0#32).memWrite 0x80000FFC#32 .word 0x1234ABCD#32 = .ok t :=
  ⟨by decide, _, rfl⟩

/-- A store that changes a byte: sb of 0x78 over the 0 at 0x8000_0013. -/
theorem witness_OnlyStoresChangeMemory :
    ∃ t, step (start small [(11, 0x80000010#32), (12, 0x78#32)] 0x00C581A3#32) = .next t ∧
      t.byteAt 0x80000013 ≠ (start small [(11, 0x80000010#32), (12, 0x78#32)] 0x00C581A3#32).byteAt 0x80000013 :=
  ⟨_, rfl, by decide⟩

theorem witness_DecodeOfEncode :
    (Instr.beq 31#5 0#5 0xFFF#12).wellFormed small = true ∧ (Instr.remu 31#5 0#5 31#5).wellFormed smallM = true := by
  decide

theorem witness_EncodeOfDecode : decode small 0xFEC5AFA3#32 = .ok (.sw 11#5 12#5 0xFFF#12) := by decide

theorem witness_NoWordMatchesTwoRows :
    ∃ e ∈ registry true, e.compiled.accepts 0x00C58533#32 = true :=
  ⟨tableRow "0000000 ????? ????? 000 ????? 01100 11" .R .add 0x00000033#64 0xFE00707F#64, by decide, by decide⟩

/-- Both answers of `resolve`. -/
theorem witness_FirstMatchWins :
    (∃ e, resolve (registry false) 0x00100073#32 = some e) ∧ resolve (registry false) 0x00000073#32 = none :=
  ⟨⟨_, rfl⟩, by decide⟩

/-- A word for each of the eleven kinds of illegal encoding, in the order of the statement. -/
theorem witness_IllegalEncodingsRejected :
    BitVec.extractLsb' 0 2 (0x00004501#32 : Word) ≠ 0b11#2 ∧
    fieldOpcode 0x0000000F#32 ∉ [0b0110111#7, 0b0010111#7, 0b0010011#7, 0b0110011#7, 0b1101111#7, 0b1100111#7,
      0b1100011#7, 0b0000011#7, 0b0100011#7, 0b1110011#7] ∧
    (fieldOpcode 0x00000073#32 = 0b1110011#7 ∧ (0x00000073#32 : Word) ≠ 0x00100073#32) ∧
    (fieldOpcode 0x40001013#32 = 0b0010011#7 ∧ fieldFunct3 0x40001013#32 = 0b001#3 ∧
      fieldFunct7 0x40001013#32 ≠ 0b0000000#7) ∧
    (fieldOpcode 0x02005013#32 = 0b0010011#7 ∧ fieldFunct3 0x02005013#32 = 0b101#3 ∧
      fieldFunct7 0x02005013#32 ≠ 0b0000000#7 ∧ fieldFunct7 0x02005013#32 ≠ 0b0100000#7) ∧
    (fieldOpcode 0x02C58533#32 = 0b0110011#7 ∧ fieldFunct7 0x02C58533#32 ≠ 0b0000000#7 ∧
      fieldFunct7 0x02C58533#32 ≠ 0b0100000#7 ∧ small.extM = false) ∧
    (fieldOpcode 0x40002033#32 = 0b0110011#7 ∧ fieldFunct7 0x40002033#32 = 0b0100000#7 ∧
      fieldFunct3 0x40002033#32 ≠ 0b000#3 ∧ fieldFunct3 0x40002033#32 ≠ 0b101#3) ∧
    (fieldOpcode 0x00001067#32 = 0b1100111#7 ∧ fieldFunct3 0x00001067#32 ≠ 0b000#3) ∧
    (fieldOpcode 0x00002063#32 = 0b1100011#7 ∧ fieldFunct3 0x00002063#32 ∈ [0b010#3, 0b011#3]) ∧
    (fieldOpcode 0x00003503#32 = 0b0000011#7 ∧ fieldFunct3 0x00003503#32 ∈ [0b011#3, 0b110#3, 0b111#3]) ∧
    (fieldOpcode 0x00003023#32 = 0b0100011#7 ∧ fieldFunct3 0x00003023#32 ∉ [0b000#3, 0b001#3, 0b010#3]) := by decide

/-- A state whose step fetches an illegal word: the premises of the second half of Illegal. -/
theorem witness_Illegal :
    (start small [] 0x40001013#32).cfg = small ∧ (start small [] 0x40001013#32).session.terminal = false ∧
    (start small [] 0x40001013#32).fetch = .ok 0x40001013#32 := by decide

/-- A word of SLLI's functs with w[31:25] = 0100000, one of SRLI's with 0000001, and one of JALR's opcode with funct3
001. -/
theorem witness_ImmediateShiftResults_JumpResults :
    (fieldOpcode 0x40001013#32 = 0b0010011#7 ∧ fieldFunct7 0x40001013#32 ≠ 0b0000000#7 ∧
      fieldFunct3 0x40001013#32 = 0b001#3) ∧
    (fieldOpcode 0x02005013#32 = 0b0010011#7 ∧ fieldFunct7 0x02005013#32 ≠ 0b0000000#7 ∧
      fieldFunct3 0x02005013#32 = 0b101#3 ∧ fieldFunct7 0x02005013#32 ≠ 0b0100000#7) ∧
    (fieldOpcode 0x00001067#32 = 0b1100111#7 ∧ fieldFunct3 0x00001067#32 ≠ 0b000#3) := by decide

theorem witness_PatternMatchesItsLiterals :
    compilePattern "1?1?" = .ok ⟨0x5#64, 0x5#64, 1⟩ ∧ patternLetters "1?1?" = ['1', '?', '1', '?'] := by decide

/-- There is a pattern of `n` letters: `n` zeros. -/
theorem exists_pattern (n : Nat) :
    ∃ p : String, (∀ d ∈ p.toList, d ∈ ['0', '1', '?', ' ']) ∧ (patternLetters p).length = n :=
  ⟨String.ofList (List.replicate n '0'), by simp [patternLetters]⟩

/-- A bad character after good ones; 65 good letters, 64 of them, and none. -/
theorem witness_PatternErrors :
    ("1 0 x".toList = ['1', ' ', '0', ' '] ++ 'x' :: [] ∧
      (∀ d ∈ ['1', ' ', '0', ' '], d ∈ ['0', '1', '?', ' ']) ∧ 'x' ∉ ['0', '1', '?', ' ']) ∧
    (∃ p : String, (∀ d ∈ p.toList, d ∈ ['0', '1', '?', ' ']) ∧ 64 < (patternLetters p).length) ∧
    (∃ p : String, (∀ d ∈ p.toList, d ∈ ['0', '1', '?', ' ']) ∧ (patternLetters p).length = 64) ∧
    (∀ d ∈ "".toList, d ∈ ['0', '1', '?', ' ']) ∧ (patternLetters "").length ≤ 64 :=
  ⟨⟨by decide, by simp, by decide⟩, (exists_pattern 65).imp fun _ h => ⟨h.1, by omega⟩, exists_pattern 64, by simp,
    by decide⟩

/-- The rows of ADD and SUB: both compile, both have 32 letters, and no word matches both. The row of ADD against
itself has one. -/
theorem witness_OverlapMeansACommonWord :
    compilePattern "0000000 ????? ????? 000 ????? 01100 11" = .ok ⟨0x33#64, 0xFE00707F#64, 0⟩ ∧
    compilePattern "0100000 ????? ????? 000 ????? 01100 11" = .ok ⟨0x40000033#64, 0xFE00707F#64, 0⟩ ∧
    (patternLetters "0000000 ????? ????? 000 ????? 01100 11").length = 32 ∧
    (patternLetters "0100000 ????? ????? 000 ????? 01100 11").length = 32 ∧
    Compiled.overlaps ⟨0x33#64, 0xFE00707F#64, 0⟩ ⟨0x40000033#64, 0xFE00707F#64, 0⟩ = false ∧
    Compiled.overlaps ⟨0x33#64, 0xFE00707F#64, 0⟩ ⟨0x33#64, 0xFE00707F#64, 0⟩ = true := by decide

/-- The lengths at both ends of the range, and on both sides outside it. -/
theorem witness_SignextContract :
    (1 ≤ 1 ∧ 1 ≤ 32) ∧ (1 ≤ 32 ∧ 32 ≤ 32) ∧ (0 = 0 ∨ 32 < 0) ∧ (33 = 0 ∨ 32 < 33) := by decide

theorem witness_OffsetRanges : small.bImmLayout = .rv32 := by decide

theorem witness_StepRunsTheDecodedInstruction :
    halting.session.terminal = false ∧ inWindow halting.cfg halting.pc 4 = true ∧
    decodeBytes halting.cfg [halting.byteAt halting.pc.toNat, halting.byteAt (halting.pc.toNat + 1),
      halting.byteAt (halting.pc.toNat + 2), halting.byteAt (halting.pc.toNat + 3)] = .ok (.ebreak, []) := by decide

/-- The three terminal sessions. -/
theorem witness_TerminalSessionsStay :
    Session.quit.terminal = true ∧ (Session.ended 0#32 0#32).terminal = true ∧
    (Session.abort 0#32 0#32 (.invalidInstruction 0#32)).terminal = true := by decide

/-- Both clauses: a step that aborts, and a step that retires. -/
theorem witness_RetiredCountsOkAndHalt :
    (∃ t p c f, step State.reset = .next t ∧ t.session = .abort p c f) ∧
    ∃ t, step halting = .next t ∧ halting.session.terminal = false ∧ (∀ p c f, t.session ≠ .abort p c f) ∧
      halting.retired ≠ BitVec.allOnes 64 :=
  ⟨⟨_, _, _, _, rfl, rfl⟩, ⟨_, rfl, by decide, (fun _ _ _ h => by cases h), by decide⟩⟩

/-- A session in which the host can call `run` or quit. -/
theorem witness_RunIsIteratedStep : State.reset.session ≠ .running := by decide

theorem witness_RunsCompose :
    State.reset.session ≠ .running ∧ (0#64).toNat + (BitVec.allOnes 64).toNat < 2 ^ 64 ∧
    ∃ t, State.reset.run 0#64 = .next t := ⟨by decide, by decide, _, rfl⟩

/-- A fresh session, with the largest count. -/
theorem witness_RunEnds :
    State.reset.session = .stop ∧ State.reset.retired.toNat + (BitVec.allOnes 64).toNat < 2 ^ 64 := by decide

theorem witness_QuitIsTerminal :
    (State.reset.session ≠ .running ∧
      ({ State.reset with session := .ended 0#32 0#32 } : State).session ≠ .running) ∧
    ∃ t, step State.reset.hostQuit = .next t ∧ t.session = .quit := ⟨by decide, _, rfl, by decide⟩

/-- A word of a base row and a word of an M row, in the reset state, whose registry has no M row. -/
theorem witness_PlacedWordRuns :
    State.reset.cfg.ok = true ∧ decodeTableWord 32 0x00C58533 = some (.add 10#5 11#5 12#5) ∧
    decodeTableWord 32 0x02C58533 = some (.mul 10#5 11#5 12#5) := by decide

/-- A terminal session, and one that is not, for each way a run can end: Stop, End and the two kinds of Abort. -/
theorem witness_RunReportsItsEnd :
    State.reset.hostQuit.session.terminal = true ∧ halting.session.terminal = false ∧
    (∃ t, halting.run 0#64 = .next t ∧ t.session = .stop) ∧
    (∃ t, halting.run 1#64 = .next t ∧ t.session = .ended resetPc 3#32) ∧
    (∃ t, (start small [] 0x0005A503#32).run 1#64 = .next t ∧
      t.session = .abort resetPc haltRetMax (.outOfBoundAccess 0#32)) ∧
    ∃ t, State.reset.run 1#64 = .next t ∧ t.session = .abort resetPc haltRetMax (.invalidInstruction resetPc) :=
  ⟨by decide, by decide, ⟨_, rfl, by decide⟩, ⟨_, rfl, by decide⟩, ⟨_, rfl, by decide⟩, _, rfl, by decide⟩

/-- An Abort by an invalid instruction, and an End. -/
theorem witness_ReportsShowTheState :
    ({ State.reset with session := .abort resetPc haltRetMax (.invalidInstruction resetPc) } : State).session
      = .abort resetPc haltRetMax (.invalidInstruction resetPc) ∧
    ∃ t, step halting = .next t ∧ t.session = .ended resetPc 3#32 :=
  ⟨rfl, _, rfl, by decide⟩

/-- An image of exactly the bank's size, and one byte more. -/
theorem witness_InitLoadsTheImage :
    ({ small with pmemSize := 4 } : Config).ok = true ∧ ebreakImage.length ≤ 4 ∧
    4 < (ebreakImage ++ [0#8]).length := by decide

theorem witness_ReadRegisterAnswers : 32 ≤ 32 := by decide

theorem witness_ReadMemoryAnswers :
    inWindow small 0x80001000#32 0 = true ∧ inWindow small 0x80001000#32 1 = false := by decide

theorem witness_InitIsWellFormed : ∃ s, State.init small (Vector.replicate 32 0#32) ebreakImage = .ok s := ⟨_, rfl⟩

/-- A well-formed state that is not the reset state, and its step. -/
theorem witness_StepKeepsWellFormed : halting.Inv ∧ ∃ t, step halting = .next t :=
  ⟨⟨by decide, by decide, by decide, by decide, trivial⟩, _, rfl⟩

theorem witness_ZeroRegisterRestored :
    (∃ t, step halting = .next t) ∧
    ∃ t, exec (.lui 0#5 0x12345#20) State.reset = .next t ∧ ∀ p c f, t.session ≠ .abort p c f :=
  ⟨⟨_, rfl⟩, _, rfl, fun _ _ _ h => by cases h⟩

end Sys2Proof.Tests
end

/-! SUPPORT. Sign and zero extension bit by bit (00_scope.md R8), and the statements about extension and reset. -/

namespace Sys2Proof.Machine

/-! ### The bits of the extensions -/

theorem toNat_lowMask {len : Nat} (h : len ≤ 32) : (lowMask len).toNat = 2 ^ len - 1 := by
  unfold lowMask
  split
  · subst len
    rfl
  · have hpos : 0 < 2 ^ len := Nat.two_pow_pos len
    have hlt : 2 ^ len < 2 ^ 32 := Nat.pow_lt_pow_right (by decide) (by omega)
    have hshift : (1#32 <<< len).toNat = 2 ^ len := by
      rw [BitVec.toNat_shiftLeft, BitVec.toNat_ofNat, Nat.shiftLeft_eq, Nat.one_mod, Nat.one_mul,
        Nat.mod_eq_of_lt hlt]
    rw [BitVec.toNat_sub, hshift, BitVec.toNat_ofNat]
    omega

/-- The mask of R8's contract has exactly the bits below `len`. -/
theorem getLsbD_lowMask {len : Nat} (h : len ≤ 32) (k : Nat) : (lowMask len).getLsbD k = decide (k < len) := by
  rw [← BitVec.testBit_toNat, toNat_lowMask h, Nat.testBit_two_pow_sub_one]

theorem signext_eq_none {len : Nat} (x : Word) (h : len = 0 ∨ 32 < len) : signext x len = none :=
  if_neg (by omega)

theorem getLsbD_zextLow {n : Nat} (h : n ≤ 32) (x : Word) (k : Nat) :
    (zextLow n x).getLsbD k = (decide (k < n) && x.getLsbD k) := by
  unfold zextLow
  rw [BitVec.getLsbD_setWidth, BitVec.getLsbD_setWidth, ← Bool.and_assoc, ← Bool.decide_and,
    decide_eq_decide.2 (by omega : k < 32 ∧ k < n ↔ k < n)]

/-- `sext_N` keeps the low `n` bits and has bit n-1 above. -/
theorem getLsbD_sextLow {n : Nat} (h : 1 ≤ n) (x : Word) {k : Nat} (hk : k < 32) :
    (sextLow n x).getLsbD k = if k < n then x.getLsbD k else x.getLsbD (n - 1) := by
  have hmsb : (x.setWidth n).msb = x.getLsbD (n - 1) := by
    rw [BitVec.msb_eq_getLsbD_last, BitVec.getLsbD_setWidth, decide_eq_true (by omega), Bool.true_and]
  unfold sextLow sext
  rw [BitVec.getLsbD_signExtend, decide_eq_true hk, Bool.true_and, hmsb]
  split
  · next hkn => rw [BitVec.getLsbD_setWidth, decide_eq_true hkn, Bool.true_and]
  · rfl

/-- The contract by mask and OR is `sext_N`: below `len` the mask keeps x's bit, above it the inverted mask is ORed in
exactly when bit len-1 is set. -/
theorem signext_eq_sextLow {len : Nat} (x : Word) (h1 : 1 ≤ len) (h32 : len ≤ 32) :
    signext x len = some (sextLow len x) := by
  have hsign : (x &&& lowMask len).getLsbD (len - 1) = x.getLsbD (len - 1) := by
    rw [BitVec.getLsbD_and, getLsbD_lowMask h32, decide_eq_true (by omega), Bool.and_true]
  unfold signext
  rw [if_pos ⟨h1, h32⟩]
  simp only [hsign, Option.some.injEq]
  apply BitVec.eq_of_getLsbD_eq
  intro k hk
  rw [getLsbD_sextLow h1 x hk]
  have hmask := getLsbD_lowMask h32 k
  by_cases hkl : k < len
  · cases x.getLsbD (len - 1) <;> simp [hmask, hkl, -BitVec.getLsbD_eq_getElem]
  · cases x.getLsbD (len - 1) <;> simp [hmask, hkl, hk, -BitVec.getLsbD_eq_getElem]

/-! ### The statements -/

/-- Settles O35: below and above `len` by the bits of `sext_N`, which `signext` is. -/
theorem signextContract : Obligations.SignextContract := by
  refine ⟨fun x len h1 h32 => ?_, fun x _ => signext_eq_none x, fun x n h1 h32 => ?_, by decide⟩
  · exact ⟨sextLow len x, signext_eq_sextLow x h1 h32, fun _ => getLsbD_sextLow h1 x⟩
  · exact ⟨signext_eq_sextLow x h1 h32, getLsbD_zextLow h32 x⟩

theorem ok_default : Config.default.ok = true := by decide

/-- Settles O53: every register is 0, no byte is listed, and the session Stop records nothing. -/
theorem resetIsWellFormed : Obligations.ResetIsWellFormed where
  cfgOk := ok_default
  zeroSlot := rfl
  memWf := wf_reset
  memInBank := rfl
  agrees := trivial

end Sys2Proof.Machine

/-! SUPPORT. What every instruction and every step can do, and the statements about the invariant and the register
reads. -/

namespace Sys2Proof.Machine

/-! ### The instructions by the shape of their effect -/

/-- The outcome is that of one of the shapes of effects, with the rows whose instructions have the shapes that touch
memory or halt. -/
inductive HasShape (s : State) : Instr → Host.Outcome State Fault Refusal → Prop
  | result {i : Instr} (o : DecodedOperands) (v : Word) : HasShape s i (writeResult o v s)
  | jump {i : Instr} (o : DecodedOperands) (target : Word) : HasShape s i (jumpAndLink o target s)
  | branch {i : Instr} (c : Bool) (o : DecodedOperands) : HasShape s i (branchIf c o s)
  | load {i : Instr} (hi : i.op ∈ [Op.lb, .lh, .lw, .lbu, .lhu]) (o : DecodedOperands) (w : Width)
      (ext : Word → Word) : HasShape s i (loadResult o w ext s)
  | store {i : Instr} (hi : i.op ∈ [Op.sb, .sh, .sw]) (o : DecodedOperands) (w : Width) :
      HasShape s i (storeOperand o w s)
  | halt : HasShape s .ebreak (execEbreak s)

theorem exec_hasShape (i : Instr) (s : State) : HasShape s i (exec i s) :=
  match i with
  | .auipc _ _ | .lui _ _ => .result _ _
  | .addi _ _ _ | .slti _ _ _ | .sltiu _ _ _ | .xori _ _ _ | .ori _ _ _ | .andi _ _ _ => .result _ _
  | .slli _ _ _ | .srli _ _ _ | .srai _ _ _ => .result _ _
  | .add _ _ _ | .sub _ _ _ | .xor _ _ _ | .or _ _ _ | .and _ _ _ => .result _ _
  | .sll _ _ _ | .srl _ _ _ | .sra _ _ _ | .slt _ _ _ | .sltu _ _ _ => .result _ _
  | .mul _ _ _ | .mulh _ _ _ | .mulhsu _ _ _ | .mulhu _ _ _ => .result _ _
  | .div _ _ _ | .divu _ _ _ | .rem _ _ _ | .remu _ _ _ => .result _ _
  | .jal _ _ | .jalr _ _ _ => .jump _ _
  | .beq _ _ _ | .bne _ _ _ | .blt _ _ _ | .bge _ _ _ | .bltu _ _ _ | .bgeu _ _ _ => .branch _ _
  | .lb _ _ _ | .lh _ _ _ | .lw _ _ _ | .lbu _ _ _ | .lhu _ _ _ => .load (by simp [Instr.op]) _ _ _
  | .sb _ _ _ | .sh _ _ _ | .sw _ _ _ => .store (by simp [Instr.op]) _ _
  | .ebreak => .halt

/-! ### What an instruction can do -/

/-- What every instruction that does not fault does: parameters kept, slot 0 restored (35_decode_dispatch.md R106), one
step counted (R117), memory changed by a store inside the window alone, and the session by the halt alone (R115). -/
structure Completes (i : Instr) (s t : State) : Prop where
  cfg : t.cfg = s.cfg
  zeroSlot : t.regs[0] = 0#32
  count : s.retired ≠ BitVec.allOnes 64 → t.retired = s.retired + 1#64
  memory : t.mem = s.mem ∨ (i.op ∈ [Op.sb, .sh, .sw] ∧ ∃ (addr v : Word) (w : Width),
    inWindow s.cfg addr w.bytes = true ∧ t.mem = Memory.writeLE s.mem addr.toNat v w)
  session : t.session = s.session ∨ (i = .ebreak ∧ t.session = .ended s.pc (s.readReg haltRetReg) ∧
    t.pc = s.pc + 4#32 ∧ ∀ r, t.readReg r = s.readReg r)

theorem writeResult_completes (i : Instr) (o : DecodedOperands) (v : Word) (s : State) :
    ∃ t, writeResult o v s = .next t ∧ Completes i s t := by
  obtain ⟨t, ht, -, -, hmem, hsession, hcfg, hzero, hcount⟩ := writeResult_spec o v s
  exact ⟨t, ht, hcfg, hzero, hcount, .inl hmem, .inl hsession⟩

/-- An outcome of a known shape is a completed instruction, or the fault of a load's or store's access. -/
theorem outcome_of_hasShape {i : Instr} {s : State} {x : Host.Outcome State Fault Refusal} (h : HasShape s i x) :
    (∃ t, x = .next t ∧ Completes i s t) ∨
    (i.op ∈ Claim.memoryOps ∧ ∃ a, x = .next (s.takeFault (.outOfBoundAccess a))) := by
  cases h with
  | result o v => exact .inl (writeResult_completes i o v s)
  | jump o target =>
    obtain ⟨t, ht, -, -, hmem, hsession, hcfg, hzero, hcount⟩ := jumpAndLink_spec o target s
    exact .inl ⟨t, ht, hcfg, hzero, hcount, .inl hmem, .inl hsession⟩
  | branch c o =>
    obtain ⟨t, ht, -, -, hmem, hsession, hcfg, hzero, hcount⟩ := branchIf_spec c o s
    exact .inl ⟨t, ht, hcfg, hzero, hcount, .inl hmem, .inl hsession⟩
  | load hi o w ext =>
    rcases loadResult_spec o w ext s with ⟨-, h⟩ | ⟨-, h⟩
    · exact .inl (h ▸ writeResult_completes i o _ s)
    · exact .inr ⟨List.mem_append_left [Op.sb, .sh, .sw] hi, _, h⟩
  | store hi o w =>
    rcases storeOperand_spec o w s with ⟨hw, t, ht, hmem, -, -, hsession, hcfg, hzero, hcount⟩ | ⟨-, h⟩
    · exact .inl ⟨t, ht, hcfg, hzero, hcount, .inr ⟨hi, _, _, _, hw, hmem⟩, .inl hsession⟩
    · exact .inr ⟨List.mem_append_right [Op.lb, .lh, .lw, .lbu, .lhu] hi, _, h⟩
  | halt =>
    obtain ⟨t, ht, hregs, hpc, hmem, hsession, hcfg, hzero, hcount⟩ := execEbreak_spec s
    exact .inl ⟨t, ht, hcfg, hzero, hcount, .inl hmem, .inr ⟨rfl, hsession, hpc, hregs⟩⟩

/-- An instruction completes, or it is a load or a store whose access is outside the window and nothing but the session
changes. -/
theorem exec_cases (i : Instr) (s : State) :
    (∃ t, exec i s = .next t ∧ Completes i s t) ∨
    (i.op ∈ Claim.memoryOps ∧ ∃ a, exec i s = .next (s.takeFault (.outOfBoundAccess a))) :=
  outcome_of_hasShape (exec_hasShape i s)

/-! ### What a step can do -/

theorem step_of_terminal {s : State} (h : s.session.terminal = true) : step s = .next s := if_pos h

theorem step_of_not_terminal {s : State} (h : s.session.terminal = false) : step s = s.execute :=
  if_neg (by simp [h])

theorem fetch_error {s : State} {f : Fault} (h : s.fetch = .error f) : f = .outOfBoundAccess s.pc := by
  rcases memRead_eq s s.pc .word with ⟨-, hr⟩ | ⟨-, hr⟩
  · exact absurd (h.symm.trans hr) (by simp)
  · exact Except.error.inj (h.symm.trans hr)

/-- A step does nothing in a terminal session; in another it runs the fetched instruction to its end, or it faults on
the access of the fetch, a load or a store, or on the instruction at the pc. -/
theorem step_cases (s : State) :
    (s.session.terminal = true ∧ step s = .next s) ∨
    (s.session.terminal = false ∧
      ((∃ w i t, s.fetch = .ok w ∧ decode s.cfg w = .ok i ∧ step s = .next t ∧ Completes i s t) ∨
        (∃ a, step s = .next (s.takeFault (.outOfBoundAccess a))) ∨
        step s = .next (s.takeFault (.invalidInstruction s.pc)))) := by
  cases hterm : s.session.terminal with
  | true => exact .inl ⟨rfl, step_of_terminal hterm⟩
  | false =>
    refine .inr ⟨rfl, ?_⟩
    rw [step_of_not_terminal hterm]
    rcases execute_cases s with ⟨f, hf, h⟩ | ⟨w, e, -, -, h⟩ | ⟨w, i, hf, hd, h⟩
    · exact .inr (.inl ⟨s.pc, fetch_error hf ▸ h⟩)
    · exact .inr (.inr h)
    · rw [h]
      rcases exec_cases i s with ⟨t, ht, hc⟩ | ⟨-, ha⟩
      · exact .inl ⟨w, i, t, hf, hd, ht, hc⟩
      · exact .inr (.inl ha)

/-! ### The invariant -/

theorem sessionAgrees_of_not_terminal {s : State} (h : s.session.terminal = false) : s.sessionAgrees := by
  unfold State.sessionAgrees
  cases hs : s.session with
  | stop | running => trivial
  | abort _ _ _ | ended _ _ | quit => simp [hs, Session.terminal] at h

theorem sessionAgrees_of_ended {s : State} {p c : Word} (h : s.session = .ended p c) (hpc : s.pc = p + 4#32)
    (hc : c = s.readReg haltRetReg) : s.sessionAgrees := by
  unfold State.sessionAgrees
  rw [h]
  exact ⟨hpc, hc⟩

/-- A fault keeps the invariant when an InvalidInstruction names the pc: it changes the session alone. -/
theorem inv_takeFault {s : State} (hs : s.Inv) {f : Fault} (hf : ∀ q, f = .invalidInstruction q → q = s.pc) :
    (s.takeFault f).Inv := by
  refine ⟨hs.cfgOk, hs.zeroSlot, hs.memWf, hs.memInBank, ?_⟩
  cases f with
  | invalidInstruction q => exact ⟨rfl, rfl, hf q rfl⟩
  | outOfBoundAccess a => exact ⟨rfl, rfl⟩

/-- An instruction that completes keeps the invariant: its store is inside the bank, and its halt records the pc and
x10. -/
theorem inv_of_completes {i : Instr} {s t : State} (hs : s.Inv) (hterm : s.session.terminal = false)
    (hc : Completes i s t) : t.Inv where
  cfgOk := hc.cfg ▸ hs.cfgOk
  zeroSlot := hc.zeroSlot
  memWf := by
    rcases hc.memory with hmem | ⟨-, addr, v, w, -, hmem⟩
    · exact hmem ▸ hs.memWf
    · exact hmem ▸ wf_writeLE _ v w hs.memWf
  memInBank := by
    rw [hc.cfg]
    rcases hc.memory with hmem | ⟨-, addr, v, w, hw, hmem⟩
    · exact hmem ▸ hs.memInBank
    · exact hmem ▸ inBank_writeLE v w hs.memInBank hw
  agrees := by
    rcases hc.session with hsession | ⟨-, hsession, hpc, hregs⟩
    · exact sessionAgrees_of_not_terminal (hsession ▸ hterm)
    · exact sessionAgrees_of_ended hsession hpc (hregs haltRetReg).symm

/-! ### The statements -/

/-- Settles O55, by the cases of a step: it stays, its instruction completes, or it faults. -/
theorem stepKeepsWellFormed : Obligations.StepKeepsWellFormed := by
  intro s t hs ht
  rcases step_cases s with ⟨-, h⟩ | ⟨hterm, ⟨w, i, u, -, -, h, hc⟩ | ⟨a, h⟩ | h⟩
  all_goals
    rw [h] at ht
    cases ht
  · exact hs
  · exact inv_of_completes hs hterm hc
  · exact inv_takeFault hs (fun _ hq => by cases hq)
  · exact inv_takeFault hs (fun _ hq => by cases hq; rfl)

/-- Settles O56: an instruction that faults has gone to Abort, and one that completes has restored slot 0. -/
theorem zeroRegisterRestored : Obligations.ZeroRegisterRestored := by
  refine ⟨fun _ t _ => readReg_zero t, fun i s t ht hnot => ?_⟩
  rcases exec_cases i s with ⟨u, h, hc⟩ | ⟨-, a, h⟩
  all_goals
    rw [h] at ht
    cases ht
  · exact hc.zeroSlot
  · exact absurd (takeFault_session s _) (hnot _ _ _)

theorem readRegister_of_lt (s : State) {idx : Nat} (h : idx < 32) :
    s.readRegister idx = .ok (s.readReg (BitVec.ofNat 5 idx)) := if_pos h

theorem readRegister_of_le (s : State) {idx : Nat} (h : 32 ≤ idx) :
    s.readRegister idx = .error (.badRegister idx) := if_neg (Nat.not_lt.2 h)

/-- Settles O49: the index of a register is below 32, and it names that register. -/
theorem readRegisterAnswers : Obligations.ReadRegisterAnswers := by
  refine fun s => ⟨rfl, readRegister_of_lt s (by decide), fun r => ?_, fun _ => readRegister_of_le s⟩
  rw [readRegister_of_lt s r.isLt, BitVec.ofNat_toNat, BitVec.setWidth_eq]

end Sys2Proof.Machine

/-! SUPPORT. The window test, the numbers that reads give, the bytes that writes store, and the statements about memory
(20_memory.md). -/

namespace Sys2Proof.Machine

/-! ### The window test -/

theorem ok_iff (cfg : Config) : cfg.ok = true ↔ pmemBase + cfg.pmemSize ≤ 2 ^ 32 ∧ 4 ≤ cfg.pmemSize := by
  simp [Config.ok]

theorem inWindow_eq_false_iff (cfg : Config) (addr : Word) (n : Nat) :
    inWindow cfg addr n = false ↔ addr.toNat < pmemBase ∨ pmemBase + cfg.pmemSize < addr.toNat + n := by
  rw [← Bool.not_eq_true, inWindow_iff]
  omega

/-- A narrower access at the address of one in the window is in the window. -/
theorem inWindow_mono {cfg : Config} {addr : Word} {n k : Nat} (hk : k ≤ n) (hw : inWindow cfg addr n = true) :
    inWindow cfg addr k = true := by
  rw [inWindow_iff] at hw ⊢
  omega

/-- The test of the two ends is the test of every byte: the first byte bounds the access below, the last one above. -/
theorem inWindow_iff_forall_byte (cfg : Config) (addr : Word) {n : Nat} (hn : 0 < n) :
    inWindow cfg addr n = true ↔
      ∀ k, k < n → pmemBase ≤ addr.toNat + k ∧ addr.toNat + k < pmemBase + cfg.pmemSize := by
  rw [inWindow_iff]
  constructor
  · intro h k hk
    omega
  · intro h
    have hfirst := h 0 hn
    have hlast := h (n - 1) (by omega)
    omega

/-- No byte of an access in the window lies past the end of the address space. -/
theorem toNat_add_of_inWindow {cfg : Config} {addr : Word} {n k : Nat} (hcfg : cfg.ok = true)
    (hw : inWindow cfg addr n = true) (hk : k < n) : (addr + BitVec.ofNat 32 k).toNat = addr.toNat + k := by
  obtain ⟨htop, -⟩ := (ok_iff cfg).1 hcfg
  obtain ⟨-, hend⟩ := (inWindow_iff cfg addr n).1 hw
  rw [BitVec.toNat_add, BitVec.toNat_ofNat]
  omega

/-- A byte of an access in the window is in the window by itself. -/
theorem inWindow_byte_of_inWindow {cfg : Config} {addr : Word} {n k : Nat} (hcfg : cfg.ok = true)
    (hw : inWindow cfg addr n = true) (hk : k < n) : inWindow cfg (addr + BitVec.ofNat 32 k) 1 = true := by
  obtain ⟨hlo, hhi⟩ := (inWindow_iff cfg addr n).1 hw
  rw [inWindow_iff, toNat_add_of_inWindow hcfg hw hk]
  omega

/-! ### The number of a little-endian access -/

theorem toNat_append_eq_add {m n : Nat} (x : BitVec m) (y : BitVec n) :
    (x ++ y).toNat = y.toNat + x.toNat * 2 ^ n := by
  rw [BitVec.toNat_append, ← Nat.shiftLeft_add_eq_or_of_lt y.isLt, Nat.shiftLeft_eq, Nat.add_comm]

theorem toNat_readLE (m : Memory) (a : Nat) (w : Width) :
    (Memory.readLE m a w).toNat =
      (Finset.range w.bytes).sum (fun k => (Memory.read m (a + k)).toNat * 256 ^ k) := by
  cases w with
  | byte =>
    have h0 := (Memory.read m a).isLt
    simp only [Memory.readLE, Width.bytes, Finset.sum_range_succ, Finset.sum_range_zero, BitVec.toNat_setWidth,
      Nat.add_zero]
    omega
  | half =>
    have h0 := (Memory.read m a).isLt
    have h1 := (Memory.read m (a + 1)).isLt
    simp only [Memory.readLE, Width.bytes, Finset.sum_range_succ, Finset.sum_range_zero, BitVec.toNat_setWidth,
      toNat_append_eq_add, Nat.add_zero]
    omega
  | word =>
    simp only [Memory.readLE, Width.bytes, Finset.sum_range_succ, Finset.sum_range_zero, toNat_append_eq_add,
      Nat.add_zero]
    omega

/-- Byte `k` of a word is its digit `k` to the base 256. -/
theorem toNat_byteOf (v : Word) (k : Nat) : (byteOf v k).toNat = v.toNat / 256 ^ k % 256 := by
  rw [byteOf, BitVec.extractLsb'_toNat, Nat.shiftRight_eq_div_pow, Nat.pow_mul]

/-- The low digits of a number to the base 256 make it modulo 256^n. -/
theorem sum_digits_eq_mod (x n : Nat) :
    (Finset.range n).sum (fun k => x / 256 ^ k % 256 * 256 ^ k) = x % 256 ^ n := by
  induction n with
  | zero => simp [Nat.mod_one]
  | succ n ih => rw [Finset.sum_range_succ, ih, Nat.mod_pow_succ, Nat.mul_comm]

/-- A read no wider than the write before it, at the same address, gives the low bytes of the value. -/
theorem toNat_readLE_writeLE (m : Memory) (a : Nat) (v : Word) {r w : Width} (h : r.bytes ≤ w.bytes) :
    (Memory.readLE (Memory.writeLE m a v w) a r).toNat = v.toNat % 256 ^ r.bytes := by
  rw [toNat_readLE, ← sum_digits_eq_mod]
  refine Finset.sum_congr rfl fun k hk => ?_
  have hk := Finset.mem_range.1 hk
  rw [read_writeLE, if_pos (by omega), Nat.add_sub_cancel_left, toNat_byteOf]

theorem readLE_half_writeLE_word (m : Memory) (a : Nat) (v : Word) :
    Memory.readLE (Memory.writeLE m a v .word) a .half = v &&& 0x0000FFFF#32 := by
  apply BitVec.eq_of_toNat_eq
  rw [toNat_readLE_writeLE m a v (by decide), BitVec.toNat_and]
  exact (Nat.and_two_pow_sub_one_eq_mod v.toNat 16).symm

theorem readLE_byte_writeLE_word (m : Memory) (a : Nat) (v : Word) :
    Memory.readLE (Memory.writeLE m a v .word) (a + 3) .byte = v >>> 24 := by
  have hv := v.isLt
  have hread : Memory.read (Memory.writeLE m a v .word) (a + 3) = byteOf v 3 := by simp [read_writeLE, Width.bytes]
  apply BitVec.eq_of_toNat_eq
  rw [Memory.readLE, hread, BitVec.toNat_setWidth, toNat_byteOf, BitVec.toNat_ushiftRight, Nat.shiftRight_eq_div_pow]
  omega

/-! ### Accesses that answer -/

theorem memRead_of_inWindow {s : State} {addr : Word} {w : Width} (h : inWindow s.cfg addr w.bytes = true) :
    s.memRead addr w = .ok (Memory.readLE s.mem addr.toNat w) := if_pos h

theorem memRead_of_not_inWindow {s : State} {addr : Word} {w : Width} (h : inWindow s.cfg addr w.bytes = false) :
    s.memRead addr w = .error (.outOfBoundAccess addr) := if_neg (by simp [h])

theorem memWrite_of_inWindow {s : State} {addr : Word} {w : Width} (v : Word)
    (h : inWindow s.cfg addr w.bytes = true) :
    s.memWrite addr w v = .ok { s with mem := Memory.writeLE s.mem addr.toNat v w } := if_pos h

theorem memWrite_of_not_inWindow {s : State} {addr : Word} {w : Width} (v : Word)
    (h : inWindow s.cfg addr w.bytes = false) : s.memWrite addr w v = .error (.outOfBoundAccess addr) :=
  if_neg (by simp [h])

/-- A write that answers a state passed the window test, and the state is the old one with the bytes stored. -/
theorem memWrite_ok {s t : State} {addr v : Word} {w : Width} (h : s.memWrite addr w v = .ok t) :
    inWindow s.cfg addr w.bytes = true ∧ t = { s with mem := Memory.writeLE s.mem addr.toNat v w } := by
  rcases memWrite_eq s addr w v with ⟨hw, he⟩ | ⟨-, he⟩
  · exact ⟨hw, (Except.ok.inj (he.symm.trans h)).symm⟩
  · exact absurd (he.symm.trans h) (by simp)

/-- A read inside the window, in the state a write answered, is made of the bytes the write left. -/
theorem memRead_of_memWrite {s t : State} {addr v : Word} {w : Width} (h : s.memWrite addr w v = .ok t) {b : Word}
    {r : Width} (hr : inWindow s.cfg b r.bytes = true) :
    t.memRead b r = .ok (Memory.readLE (Memory.writeLE s.mem addr.toNat v w) b.toNat r) := by
  obtain ⟨-, rfl⟩ := memWrite_ok h
  exact memRead_of_inWindow hr

/-! ### The bytes of a range -/

theorem bytesFrom_length (s : State) (a n : Nat) : (s.bytesFrom a n).length = n := by
  induction n generalizing a with
  | zero => rfl
  | succ n ih => simp [State.bytesFrom, ih]

theorem bytesFrom_getElem? (s : State) {a n k : Nat} (hk : k < n) :
    (s.bytesFrom a n)[k]? = some (s.byteAt (a + k)) := by
  induction n generalizing a k with
  | zero => omega
  | succ n ih =>
    cases k with
    | zero => rfl
    | succ k =>
      have hstep : a + (k + 1) = a + 1 + k := by omega
      rw [hstep, ← ih (Nat.lt_of_succ_lt_succ hk)]
      rfl

/-! ### Bytes after a change of memory -/

theorem byteAt_eq_of_mem {s t : State} (h : t.mem = s.mem) (a : Nat) : t.byteAt a = s.byteAt a := by
  unfold State.byteAt
  rw [h]

/-- A byte that a store in the window changed is in the window. -/
theorem window_of_byteAt_ne {s t : State} {addr v : Word} {w : Width} {a : Nat}
    (hw : inWindow s.cfg addr w.bytes = true) (hmem : t.mem = Memory.writeLE s.mem addr.toNat v w)
    (hne : t.byteAt a ≠ s.byteAt a) : pmemBase ≤ a ∧ a < pmemBase + s.cfg.pmemSize := by
  obtain ⟨hlo, hhi⟩ := (inWindow_iff _ _ _).1 hw
  by_cases hstored : addr.toNat ≤ a ∧ a < addr.toNat + w.bytes
  · omega
  · refine absurd ?_ hne
    rw [State.byteAt, hmem, read_writeLE, if_neg hstored, State.byteAt]

/-- A fetch at the address of a word just stored gives that word. -/
theorem fetch_of_writeLE {t : State} {m : Memory} {addr v : Word} (hmem : t.mem = Memory.writeLE m addr.toNat v .word)
    (hw : inWindow t.cfg addr Width.word.bytes = true) : State.fetch { t with pc := addr } = .ok v := by
  refine (memRead_of_inWindow hw).trans ?_
  rw [hmem, readLE_writeLE_word]

/-! ### The address of a store -/

/-- The shift and OR of R70 put w[31:25], sign-extended, above w[11:7]: bit by bit the sign extension of the two parts
side by side. -/
theorem immS_eq_sext (imm : BitVec 12) : immS imm = sext imm := by
  apply BitVec.eq_of_getLsbD_eq
  intro i hi
  simp only [immS, sext, BitVec.getLsbD_or, BitVec.getLsbD_shiftLeft, BitVec.getLsbD_setWidth,
    BitVec.getLsbD_extractLsb', BitVec.getLsbD_signExtend, BitVec.msb_eq_getLsbD_last]
  by_cases hlow : i < 5
  · simp [hi, hlow, show i < 12 by omega, -BitVec.getLsbD_eq_getElem]
  · have hpart : i - 5 < 7 ↔ i < 12 := by omega
    have hbit : 5 + (i - 5) = i := by omega
    by_cases hhigh : i < 12 <;>
      simp [hi, hlow, hpart, hbit, hhigh, show i - 5 < 32 by omega, -BitVec.getLsbD_eq_getElem]

theorem immOfS_encodeSB (imm : BitVec 12) (rs2 rs1 : Reg) (funct3 : BitVec 3) (opcode : BitVec 7) :
    Claim.immOfS (encodeSB imm rs2 rs1 funct3 opcode) = sext imm :=
  congrArg sext (fieldImmSB_encodeSB imm rs2 rs1 funct3 opcode)

/-- The address a store computes is the one its word gives. -/
theorem operandsS_address_eq_immOfS (rs1 rs2 : Reg) (imm : BitVec 12) (s : State) (funct3 : BitVec 3)
    (opcode : BitVec 7) :
    (operandsS rs1 rs2 imm s).address = s.readReg rs1 + Claim.immOfS (encodeSB imm rs2 rs1 funct3 opcode) := by
  rw [immOfS_encodeSB, ← immS_eq_sext]
  rfl

/-! ### The statements -/

/-- Settles O19: the first and the last byte bound the access; of the three addresses only the end of the bank can be
2^32, and then it wraps to 0, below the window. -/
theorem windowHoldsEveryByte : Obligations.WindowHoldsEveryByte := by
  refine ⟨fun cfg addr n hn => inWindow_iff_forall_byte cfg addr hn, fun cfg hcfg => ?_⟩
  obtain ⟨htop, hsize⟩ := (ok_iff cfg).1 hcfg
  simp only [inWindow_iff, inWindow_eq_false_iff, BitVec.toNat_ofNat]
  unfold pmemBase at *
  exact ⟨by omega, by omega, by omega⟩

/-- Settles O20: the bytes `readLE` appends are the digits of its number. -/
theorem memReadIsLittleEndian : Obligations.MemReadIsLittleEndian := fun s addr w =>
  ⟨fun hw => ⟨_, memRead_of_inWindow hw, toNat_readLE s.mem addr.toNat w⟩, memRead_of_not_inWindow⟩

/-- Settles O21: inside the stored range a byte is that of the value, outside it the old one. -/
theorem memWriteStoresItsBytes : Obligations.MemWriteStoresItsBytes := by
  refine fun s addr w v => ⟨fun hw => ⟨_, memWrite_of_inWindow v hw, fun k hk => ?_, fun a ha => ?_, rfl⟩,
    memWrite_of_not_inWindow v⟩
  · rw [State.byteAt, read_writeLE, if_pos (by omega), Nat.add_sub_cancel_left, byteOf]
  · exact (read_writeLE _ _ _ _ _).trans (if_neg ha)

/-- Settles O22: the write passed the window test that the read makes, and the bytes read are those of the value. -/
theorem readAfterWrite : Obligations.ReadAfterWrite := by
  intro s t addr w v h
  obtain ⟨hw, -⟩ := memWrite_ok h
  exact ⟨_, memRead_of_memWrite h hw, toNat_readLE_writeLE _ _ _ le_rfl⟩

/-- Settles O23: both reads are inside the window of the write, and the address + 3 does not wrap. -/
theorem mixedWidthReads : Obligations.MixedWidthReads := by
  intro s t addr v hcfg h
  obtain ⟨hw, -⟩ := memWrite_ok h
  constructor
  · rw [memRead_of_memWrite h (inWindow_mono (by decide) hw), readLE_half_writeLE_word]
  · have hthree : 3 < Width.word.bytes := by decide
    rw [memRead_of_memWrite h (inWindow_byte_of_inWindow hcfg hw hthree), toNat_add_of_inWindow hcfg hw hthree,
      readLE_byte_writeLE_word]

/-- Settles O50: the bytes are listed from the first address up, and an empty range meets the test of its two ends. -/
theorem readMemoryAnswers : Obligations.ReadMemoryAnswers := fun s addr len =>
  ⟨fun hw => ⟨_, if_pos hw, bytesFrom_length s _ len, fun _ => bytesFrom_getElem? s⟩,
    fun hw => if_neg (by simp [hw]), inWindow_iff s.cfg addr 0⟩

/-- Settles O24: of the cases of a step only an instruction that completes changes memory, by a store, and the byte that
changes is one of those stored. -/
theorem onlyStoresChangeMemory : Obligations.OnlyStoresChangeMemory := by
  intro s t a ht hne
  rcases step_cases s with ⟨-, h⟩ | ⟨-, ⟨w, i, u, hf, hd, h, hc⟩ | ⟨b, h⟩ | h⟩
  all_goals
    rw [h] at ht
    cases ht
  · exact absurd rfl hne
  · rcases hc.memory with hmem | ⟨hop, addr, v, width, hw, hmem⟩
    · exact absurd (byteAt_eq_of_mem hmem a) hne
    · exact ⟨⟨w, i, hf, hd, hop⟩, window_of_byteAt_ne hw hmem hne⟩
  · exact absurd rfl hne
  · exact absurd rfl hne

/-- Settles O14: the access is in the window, so the store answers the memory with the word written at the address its
word gives, and the parameters as before. -/
theorem storeIsSeenByFetch : Obligations.StoreIsSeenByFetch := by
  intro rs1 rs2 imm s t h hw
  have haddr : (operandsS rs1 rs2 imm s).address = s.readReg rs1 + Claim.immOfS (encode (.sw rs1 rs2 imm)) :=
    operandsS_address_eq_immOfS rs1 rs2 imm s _ _
  rw [← haddr] at hw ⊢
  rcases storeOperand_spec (operandsS rs1 rs2 imm s) .word s with ⟨-, u, hu, hmem, -, -, -, hcfg, -⟩ | ⟨hout, -⟩
  · cases h.symm.trans hu
    exact fetch_of_writeLE hmem (hcfg ▸ hw)
  · exact absurd (hw.symm.trans hout) (by decide)

end Sys2Proof.Machine

/-! SUPPORT. A word is made of its fields, what the rows of the opcode table accept, what a configuration decodes, and
the statements about words and instructions (30_encoding.md). -/

namespace Sys2Proof

/-! ### A word is made of its fields -/

theorem encodeR_of_fields {w : Word} {funct7 : BitVec 7} {funct3 : BitVec 3} {opcode : BitVec 7}
    (h7 : fieldFunct7 w = funct7) (h3 : fieldFunct3 w = funct3) (ho : fieldOpcode w = opcode) :
    encodeR funct7 (fieldRs2 w) (fieldRs1 w) funct3 (fieldRd w) opcode = w := by
  subst h7 h3 ho
  apply BitVec.eq_of_getLsbD_eq
  intro i hi
  interval_cases i <;> simp [encodeR, place, fieldFunct7, fieldRs2, fieldRs1, fieldFunct3, fieldRd, fieldOpcode]

theorem encodeI_of_fields {w : Word} {funct3 : BitVec 3} {opcode : BitVec 7}
    (h3 : fieldFunct3 w = funct3) (ho : fieldOpcode w = opcode) :
    encodeI (fieldImmI w) (fieldRs1 w) funct3 (fieldRd w) opcode = w := by
  subst h3 ho
  apply BitVec.eq_of_getLsbD_eq
  intro i hi
  interval_cases i <;> simp [encodeI, place, fieldImmI, fieldRs1, fieldFunct3, fieldRd, fieldOpcode]

theorem encodeUJ_of_fields {w : Word} {opcode : BitVec 7} (ho : fieldOpcode w = opcode) :
    encodeUJ (fieldImmUJ w) (fieldRd w) opcode = w := by
  subst ho
  apply BitVec.eq_of_getLsbD_eq
  intro i hi
  interval_cases i <;> simp [encodeUJ, place, fieldImmUJ, fieldRd, fieldOpcode]

theorem extractLsb'_high_fieldImmSB (w : Word) : (fieldImmSB w).extractLsb' 5 7 = fieldFunct7 w :=
  BitVec.extractLsb'_append_eq_left

theorem extractLsb'_low_fieldImmSB (w : Word) : (fieldImmSB w).extractLsb' 0 5 = fieldRd w :=
  BitVec.extractLsb'_append_eq_right

/-- Formats S and B have the two parts of the immediate where format R has funct7 and rd. -/
theorem encodeSB_of_fields {w : Word} {funct3 : BitVec 3} {opcode : BitVec 7}
    (h3 : fieldFunct3 w = funct3) (ho : fieldOpcode w = opcode) :
    encodeSB (fieldImmSB w) (fieldRs2 w) (fieldRs1 w) funct3 opcode = w := by
  rw [encodeSB, extractLsb'_high_fieldImmSB, extractLsb'_low_fieldImmSB]
  exact encodeR_of_fields rfl h3 ho

/-! ### What a row accepts -/

/-- Half of R93's second form: shifting back the comparison of R92 loses no bit of the key and none of the mask. -/
theorem and_fullMask_of_accepts {c : Compiled} {w : Word} (h : c.accepts w = true) :
    w.setWidth 64 &&& c.fullMask = c.fullKey := by
  have hkey : w.setWidth 64 >>> c.shift &&& c.mask = c.key := beq_iff_eq.1 h
  rw [Compiled.fullMask, Compiled.fullKey, ← hkey, BitVec.shiftLeft_and_distrib]
  ext i hi
  by_cases hs : i < c.shift
  · simp [hs]
  · have hback : c.shift + (i - c.shift) = i := by omega
    simp [hs, hback, hi]

/-- Where both patterns fix a bit, both have the word's. -/
theorem overlaps_of_accepts {a b : Compiled} {w : Word} (ha : a.accepts w = true) (hb : b.accepts w = true) :
    a.overlaps b = true := by
  rw [Compiled.overlaps, ← and_fullMask_of_accepts ha, ← and_fullMask_of_accepts hb, beq_iff_eq]
  ext i hi
  simp only [BitVec.getElem_and, BitVec.getElem_xor, BitVec.getElem_zero]
  cases a.fullMask[i] <;> cases b.fullMask[i] <;> simp

/-- R97 holds of the whole opcode table. -/
theorem registry_pairwise :
    (registry true).Pairwise (fun a b => a.compiled.overlaps b.compiled = false) := by
  decide

/-- A word that both entries accept makes them the same entry. -/
def Entry.AgreeOn (w : Word) (a b : Entry) : Prop :=
  a.compiled.accepts w = true → b.compiled.accepts w = true → a = b

theorem entry_eq_of_accepts {w : Word} {e e' : Entry} (he : e ∈ registry true) (he' : e' ∈ registry true)
    (ha : e.compiled.accepts w = true) (ha' : e'.compiled.accepts w = true) : e = e' := by
  have hpairwise : (registry true).Pairwise (Entry.AgreeOn w) :=
    registry_pairwise.imp (fun hab ha hb => by simp [overlaps_of_accepts ha hb] at hab)
  have hsymm : Std.Symm (Entry.AgreeOn w) := ⟨fun _ _ h hb ha => (h ha hb).symm⟩
  exact hpairwise.forall_of_forall (fun _ _ _ _ => rfl) he he' ha ha'

/-! ### The literal fields of a row -/

/-- The key of an entry as a word. -/
def Entry.key (e : Entry) : Word := e.compiled.key.setWidth 32

/-- The mask of an entry as a word. -/
def Entry.mask (e : Entry) : Word := e.compiled.mask.setWidth 32

theorem compiled_eq_of_mem : ∀ e ∈ registry true, e.compiled = ⟨e.key.setWidth 64, e.mask.setWidth 64, 0⟩ := by
  decide

theorem and_mask_of_accepts {e : Entry} (he : e ∈ registry true) {w : Word} (h : e.compiled.accepts w = true) :
    w &&& e.mask = e.key := by
  rw [compiled_eq_of_mem e he] at h
  exact (accepts_iff_and _ _ _).1 h

/-- A field that the mask of a row covers is the key's in every word the row accepts. -/
theorem extractLsb'_of_accepts {e : Entry} (he : e ∈ registry true) {w : Word} (h : e.compiled.accepts w = true)
    {lo n : Nat} {v : BitVec n}
    (hfield : e.mask.extractLsb' lo n = BitVec.allOnes n ∧ e.key.extractLsb' lo n = v) :
    w.extractLsb' lo n = v := by
  obtain ⟨hmask, hkey⟩ := hfield
  rw [← hkey, ← and_mask_of_accepts he h, BitVec.extractLsb'_and, hmask, BitVec.and_allOnes]

/-- The row's pattern fixes funct3: formats U and J have no such field. -/
def Op.fixesFunct3 : Op → Bool
  | .auipc | .lui | .jal => false
  | _ => true

/-- The row's pattern fixes w[31:25]: in format R, in the immediate shifts (R78) and in EBREAK. -/
def Op.fixesFunct7 : Op → Bool
  | .slli | .srli | .srai | .ebreak => true
  | op => op.format == .R

theorem registry_opcode : ∀ e ∈ registry true,
    fieldOpcode e.mask = BitVec.allOnes 7 ∧ fieldOpcode e.key = e.row.op.opcode := by
  decide

theorem registry_funct3 : ∀ e ∈ registry true, e.row.op.fixesFunct3 = true →
    fieldFunct3 e.mask = BitVec.allOnes 3 ∧ fieldFunct3 e.key = e.row.op.funct3 := by
  decide

theorem registry_funct7 : ∀ e ∈ registry true, e.row.op.fixesFunct7 = true →
    fieldFunct7 e.mask = BitVec.allOnes 7 ∧ fieldFunct7 e.key = e.row.op.funct7 := by
  decide

theorem registry_ebreak : ∀ e ∈ registry true, e.row.op = .ebreak →
    e.mask = BitVec.allOnes 32 ∧ e.key = encode .ebreak := by
  decide

/-- The word has the literal fields of the row (30_encoding.md R80, and the functs of 41 to 45). -/
structure Op.Fits (op : Op) (w : Word) : Prop where
  opcode : fieldOpcode w = op.opcode
  funct3 : op.fixesFunct3 = true → fieldFunct3 w = op.funct3
  funct7 : op.fixesFunct7 = true → fieldFunct7 w = op.funct7
  word : op = .ebreak → w = encode .ebreak

/-- A row accepts only words with its literal fields, since its mask covers them and its key holds them. -/
theorem fits_of_accepts {e : Entry} (he : e ∈ registry true) {w : Word} (h : e.compiled.accepts w = true) :
    e.row.op.Fits w where
  opcode := extractLsb'_of_accepts he h (registry_opcode e he)
  funct3 hf := extractLsb'_of_accepts he h (registry_funct3 e he hf)
  funct7 hf := extractLsb'_of_accepts he h (registry_funct7 e he hf)
  word hop := by
    obtain ⟨hmask, hkey⟩ := registry_ebreak e he hop
    rw [← hkey, ← and_mask_of_accepts he h, hmask, BitVec.and_allOnes]

/-! ### The word of an instruction and the instruction of a word -/

/-- A word with a row's literal fields is the word of the instruction it stands for: the operand fields of the row's
format are the rest of the word. -/
theorem encode_instr_of_fits {w : Word} : {op : Op} → op.Fits w → encode (op.instr w) = w
  | .auipc, h | .lui, h | .jal, h => encodeUJ_of_fields h.opcode
  | .addi, h | .slti, h | .sltiu, h | .xori, h | .ori, h | .andi, h
  | .jalr, h | .lb, h | .lh, h | .lw, h | .lbu, h | .lhu, h => encodeI_of_fields (h.funct3 rfl) h.opcode
  | .sb, h | .sh, h | .sw, h
  | .beq, h | .bne, h | .blt, h | .bge, h | .bltu, h | .bgeu, h => encodeSB_of_fields (h.funct3 rfl) h.opcode
  | .slli, h | .srli, h | .srai, h
  | .add, h | .sub, h | .xor, h | .or, h | .and, h
  | .sll, h | .srl, h | .sra, h | .slt, h | .sltu, h
  | .mul, h | .mulh, h | .mulhsu, h | .mulhu, h
  | .div, h | .divu, h | .rem, h | .remu, h => encodeR_of_fields (h.funct7 rfl) (h.funct3 rfl) h.opcode
  | .ebreak, h => (h.word rfl).symm

/-- The fields of an encoded word are the operands of its instruction. -/
theorem instr_encode : (i : Instr) → i.op.instr (encode i) = i
  | .auipc .. | .lui .. | .jal .. => by
    simp only [Instr.op, Op.instr, encode, fieldRd_encodeUJ, fieldImmUJ_encodeUJ]
  | .addi .. | .slti .. | .sltiu .. | .xori .. | .ori .. | .andi .. | .jalr ..
  | .lb .. | .lh .. | .lw .. | .lbu .. | .lhu .. => by
    simp only [Instr.op, Op.instr, encode, fieldRd_encodeI, fieldRs1_encodeI, fieldImmI_encodeI]
  | .sb .. | .sh .. | .sw ..
  | .beq .. | .bne .. | .blt .. | .bge .. | .bltu .. | .bgeu .. => by
    simp only [Instr.op, Op.instr, encode, fieldRs1_encodeSB, fieldRs2_encodeSB, fieldImmSB_encodeSB]
  | .slli .. | .srli .. | .srai .. => by
    simp only [Instr.op, Op.instr, encode, fieldRd_encodeR, fieldRs1_encodeR, fieldShamt_encodeR]
  | .add .. | .sub .. | .xor .. | .or .. | .and .. | .sll .. | .srl .. | .sra .. | .slt .. | .sltu ..
  | .mul .. | .mulh .. | .mulhsu .. | .mulhu .. | .div .. | .divu .. | .rem .. | .remu .. => by
    simp only [Instr.op, Op.instr, encode, fieldRd_encodeR, fieldRs1_encodeR, fieldRs2_encodeR]
  | .ebreak => rfl

theorem op_instr (op : Op) (w : Word) : (op.instr w).op = op := by
  cases op <;> rfl

/-- The word of every instruction is accepted by the row of that instruction. -/
theorem Laws.EncodesItsRow.of_instr (i : Instr) : Statement i := by
  cases i
  exacts [auipc .., lui .., addi .., slti .., sltiu .., xori .., ori .., andi .., slli .., srli .., srai .., add ..,
    sub .., sll .., slt .., sltu .., xor .., srl .., sra .., or .., and .., jal .., jalr .., beq .., bne .., blt ..,
    bge .., bltu .., bgeu .., lb .., lh .., lw .., lbu .., lhu .., sb .., sh .., sw .., ebreak, mul .., mulh ..,
    mulhsu .., mulhu .., div .., divu .., rem .., remu ..]

/-! ### What a configuration decodes -/

theorem isMExt_baseRows : ∀ e ∈ baseRows, e.row.op.isMExt = false := by
  decide

theorem isMExt_mExtRows : ∀ e ∈ mExtRows, e.row.op.isMExt = true := by
  decide

/-- R98: `EXT_M` adds the rows of `M_EXT` and no other. -/
theorem mem_registry_iff {extM : Bool} {e : Entry} :
    e ∈ registry extM ↔ e ∈ registry true ∧ (e.row.op.isMExt = true → extM = true) := by
  cases extM with
  | true => simp
  | false =>
    simp only [registry, if_true, Bool.false_eq_true, if_false, List.mem_append, imp_false, Bool.not_eq_true]
    constructor
    · exact fun hb => ⟨.inl hb, isMExt_baseRows e hb⟩
    · rintro ⟨hb | hm, hop⟩
      · exact hb
      · simp [isMExt_mExtRows e hm] at hop

theorem wellFormed_iff {cfg : Config} {i : Instr} :
    i.wellFormed cfg = true ↔ (i.op.isMExt = true → cfg.extM = true) := by
  cases h : i.op.isMExt <;> simp [Instr.wellFormed, h]

theorem decode_of_accepts {cfg : Config} {w : Word} {e : Entry} (he : e ∈ registry cfg.extM)
    (ha : e.compiled.accepts w = true) : decode cfg w = .ok (e.row.op.instr w) := by
  have hr : resolve (registry cfg.extM) w = some e := resolve_eq_of_only he ha fun e' he' ha' =>
    entry_eq_of_accepts (mem_registry_iff.1 he').1 (mem_registry_iff.1 he).1 ha' ha
  rw [decode, hr]

/-- A word decodes to the instruction of a row of the configuration whose literal fields it has. -/
theorem decode_ok {cfg : Config} {w : Word} {i : Instr} (h : decode cfg w = .ok i) :
    ∃ op : Op, op.Fits w ∧ (op.isMExt = true → cfg.extM = true) ∧ op.instr w = i := by
  obtain ⟨e, hr, hi⟩ := decode_eq_ok h
  obtain ⟨he, ha⟩ := resolve_some hr
  obtain ⟨he, hM⟩ := mem_registry_iff.1 he
  exact ⟨e.row.op, fits_of_accepts he ha, hM, hi⟩

theorem decode_error {cfg : Config} {w : Word} {err : DecodeError} (h : decode cfg w = .error err) :
    err = .invalidInstruction w := by
  unfold decode at h
  split at h
  · cases h
  · exact (Except.error.inj h).symm

/-! ### The two round trips -/

/-- Settles O25: the row of the instruction accepts its word, no other row does, and the fields of the word are the
operands. -/
theorem decodeOfEncode : Obligations.DecodeOfEncode := by
  intro cfg i hwf
  obtain ⟨e, he, hop, ha⟩ := Laws.EncodesItsRow.of_instr i
  have hmem : e ∈ registry cfg.extM := mem_registry_iff.2 ⟨he, hop ▸ wellFormed_iff.1 hwf⟩
  rw [decode_of_accepts hmem ha, hop, instr_encode]

/-- Settles O26: the word has the literal fields of its row and the operand fields are the rest of it, and the row is one
of the configuration. -/
theorem encodeOfDecode : Obligations.EncodeOfDecode := by
  intro cfg w i h
  obtain ⟨op, hfits, hM, rfl⟩ := decode_ok h
  exact ⟨encode_instr_of_fits hfits, wellFormed_iff.2 (by rwa [op_instr])⟩

/-! ### Illegal words -/

theorem Machine.step_of_decode_error {s : State} {w : Word} {err : DecodeError} (hterm : s.session.terminal = false)
    (hfetch : s.fetch = .ok w) (hd : decode s.cfg w = .error err) :
    step s = .next (s.takeFault (.invalidInstruction s.pc)) := by
  rw [step_of_not_terminal hterm, State.execute, hfetch]
  simp only [hd]

/-- A word with the literal fields of no row of the configuration is illegal. -/
theorem illegal_of_forall_not_fits {cfg : Config} {w : Word}
    (h : ∀ op : Op, (op.isMExt = true → cfg.extM = true) → ¬op.Fits w) : Claim.Illegal cfg w := by
  have hd : decode cfg w = .error (.invalidInstruction w) := by
    cases hd : decode cfg w with
    | ok i =>
      obtain ⟨op, hfits, hM, -⟩ := decode_ok hd
      exact absurd hfits (h op hM)
    | error err => rw [decode_error hd]
  exact ⟨hd, fun s hcfg hterm hfetch => Machine.step_of_decode_error hterm hfetch (hcfg ▸ hd)⟩

theorem extractLsb'_low_fieldOpcode (w : Word) : (fieldOpcode w).extractLsb' 0 2 = w.extractLsb' 0 2 := by
  ext i hi
  interval_cases i <;> simp [fieldOpcode]

/-- Settles O30: a row that the word fits would contradict the clause, by its opcode alone where the pattern fixes no
funct3, else by its functs. -/
theorem illegalEncodingsRejected : Obligations.IllegalEncodingsRejected := by
  intro cfg w h
  refine illegal_of_forall_not_fits fun op hM hfits => ?_
  have hopcode := hfits.opcode
  rw [← extractLsb'_low_fieldOpcode, hopcode] at h
  cases op with
  | auipc | lui | jal => simp [Op.opcode] at h
  | ebreak => simp [Op.opcode, hfits.word rfl, encode] at h
  | mul | mulh | mulhsu | mulhu | div | divu | rem | remu =>
    simp [Op.opcode, Op.funct7, hfits.funct7 rfl, hM rfl] at h
  | add | sub | sll | slt | sltu | xor | srl | sra | or | and | slli | srli | srai =>
    simp [Op.opcode, Op.funct3, Op.funct7, hfits.funct3 rfl, hfits.funct7 rfl] at h
  | _ => simp [Op.opcode, Op.funct3, hfits.funct3 rfl] at h

/-- Settles O31, word by word. -/
theorem wordsDecode : Obligations.WordsDecode := by
  unfold Obligations.WordsDecode
  decide

end Sys2Proof

/-! SUPPORT. The immediates of the operand decoders bit by bit, and the statements about the operand decoders. -/

namespace Sys2Proof.Machine

/-! ### The immediates of a word -/

/-- The 20 bits that `immB` puts together under `doc_literal` are w[31:12]. -/
theorem append_fields_eq_fieldImmUJ (w : Word) :
    (fieldImmSB w).extractLsb' 5 7 ++ (fieldRs2 w ++ (fieldRs1 w ++ fieldFunct3 w)) = fieldImmUJ w := by
  rw [extractLsb'_high_fieldImmSB]
  apply BitVec.eq_of_getLsbD_eq
  intro i hi
  simp only [getLsbD_append_7_5_5_3]
  interval_cases i <;> simp [fieldFunct7, fieldRs2, fieldRs1, fieldFunct3, fieldImmUJ]

/-- The shifts and ORs of R74 give the bits in the order of its second form. -/
theorem immJ_fieldImmUJ (w : Word) : immJ (fieldImmUJ w) = Claim.immOfJ w := by
  refine congrArg sext ?_
  apply BitVec.eq_of_getLsbD_eq
  intro i hi
  simp only [getLsbD_append_1_8_1_10_1]
  interval_cases i <;> simp [fieldImmUJ]

/-- The pieces of the raw field of format B are those of the word. -/
theorem immBRv32_fieldImmSB (w : Word) : immBRv32 (fieldImmSB w) = Claim.immOfB .rv32 w := by
  refine congrArg sext ?_
  apply BitVec.eq_of_getLsbD_eq
  intro i hi
  simp only [getLsbD_append_1_1_6_4_1, BitVec.getLsbD_extractLsb', fieldImmSB, getLsbD_append_7_5]
  interval_cases i <;> simp

theorem immB_of_word (layout : BImmLayout) (w : Word) :
    immB layout (fieldFunct3 w) (fieldRs1 w) (fieldRs2 w) (fieldImmSB w) = Claim.immOfB layout w := by
  cases layout with
  | rv32 => exact immBRv32_fieldImmSB w
  | docLiteral => exact (congrArg immJ (append_fields_eq_fieldImmUJ w)).trans (immJ_fieldImmUJ w)

/-- R73: of the sign-extended 20 bits a shift by 12 keeps those 20. -/
theorem sext_shiftLeft_fieldImmUJ (w : Word) : sext (fieldImmUJ w) <<< 12 = Claim.immOfU w := by
  apply BitVec.eq_of_getLsbD_eq
  intro i hi
  refine Eq.trans ?_ (BitVec.getLsbD_append (x := w.extractLsb' 12 20) (y := 0#12)).symm
  interval_cases i <;> simp [sext, BitVec.getElem_signExtend, fieldImmUJ]

/-! ### Even offsets -/

theorem toInt_emod_two_of_getLsbD_zero {n : Nat} {v : BitVec (n + 1)} (h : v.getLsbD 0 = false) :
    v.toInt % 2 = 0 := by
  have heven : v.toNat % 2 = 0 := by
    simpa [← BitVec.testBit_toNat, -BitVec.getLsbD_eq_getElem] using h
  rw [BitVec.toInt_eq_toNat_cond, Nat.pow_succ]
  split <;> omega

/-- A sign-extended field that ends in a 0 is even, so its largest value is one less than that of its width. -/
theorem toInt_sext_of_getLsbD_zero {n : Nat} (hn : n + 2 ≤ 32) {v : BitVec (n + 2)} (h : v.getLsbD 0 = false) :
    (sext v).toInt % 2 = 0 ∧ -2 ^ (n + 1) ≤ (sext v).toInt ∧ (sext v).toInt ≤ 2 ^ (n + 1) - 2 := by
  have heven := toInt_emod_two_of_getLsbD_zero h
  have hlo : -2 ^ (n + 1) ≤ v.toInt := BitVec.le_toInt v
  have hhi : v.toInt < 2 ^ (n + 1) := BitVec.toInt_lt
  rw [Int.pow_succ] at *
  rw [sext, BitVec.toInt_signExtend_of_le hn]
  omega

/-! ### The statements -/

/-- Settles O36: the formats differ in the immediate, which in format R and N is 0 and in the others is the word's. -/
theorem operandDecoders : Obligations.OperandDecoders := by
  refine fun w s => ⟨rfl, rfl, ?_, ?_, ?_, ?_, rfl⟩
  · rw [decodeOperands, operandsS, extractLsb'_low_fieldImmSB, immS_eq_sext]
    rfl
  · rw [decodeOperands, operandsB, extractLsb'_low_fieldImmSB, immB_of_word]
    rfl
  · rw [decodeOperands, operandsU, sext_shiftLeft_fieldImmUJ]
    rfl
  · rw [decodeOperands, operandsJ, immJ_fieldImmUJ]
    rfl

/-- Settles O37: both immediates are sign-extended fields, of 13 and of 21 bits, that end in a 0. -/
theorem offsetRanges : Obligations.OffsetRanges := by
  intro w s
  constructor
  · intro hlayout
    have himm : (decodeOperands .B w s).imm = immBRv32 (fieldImmSB w) := by
      rw [decodeOperands, operandsB_imm, hlayout, immB]
    rw [himm]
    exact toInt_sext_of_getLsbD_zero (by decide) (getLsbD_append_1_1_6_4_1 ..)
  · rw [decodeOperands, operandsJ_imm, immJ_fieldImmUJ]
    exact toInt_sext_of_getLsbD_zero (by decide) (getLsbD_append_1_8_1_10_1 ..)

end Sys2Proof.Machine

/-! SUPPORT. The scan of a pattern string over its letters, what a compiled pattern accepts, how a registry is built,
and the statements about patterns and the registry (35_decode_dispatch.md R90 to R98). -/

namespace Sys2Proof

/-! ### The scan of a pattern -/

/-- A bit for each of some letters, the last letter at bit 0, shifted in letter by letter as R91 does. The letters of a
scan are listed with the last one first. -/
def bitsOf (f : Char → Bool) : List Char → BitVec 64
  | [] => 0#64
  | c :: r => bitsOf f r <<< 1 ||| if f c then 1#64 else 0#64

/-- The key: which letters are `1`. -/
def keyOf (r : List Char) : BitVec 64 := bitsOf (· = '1') r

/-- The mask: which letters are literals. -/
def maskOf (r : List Char) : BitVec 64 := bitsOf (fun c => c = '0' ∨ c = '1') r

/-- The trailing wildcards of some letters. -/
def wildcards : List Char → Nat
  | [] => 0
  | c :: r => if c = '?' then wildcards r + 1 else 0

/-- The scan of R91 from position `j` on, after the letters `r`, the last one first. -/
def scanAfter (r cs : List Char) (j : Nat) : Except PatternError Compiled :=
  compileScan cs j (keyOf r) (maskOf r) (wildcards r) r.length

theorem compilePattern_eq_scanAfter (p : String) : compilePattern p = scanAfter [] p.toList 0 := rfl

theorem scanAfter_nil (r : List Char) (j : Nat) :
    scanAfter r [] j = if 64 < r.length then .error (.tooLong r.length)
      else .ok ⟨keyOf r >>> wildcards r, maskOf r >>> wildcards r, wildcards r⟩ := rfl

theorem scanAfter_space (r cs : List Char) (j : Nat) : scanAfter r (' ' :: cs) j = scanAfter r cs (j + 1) := rfl

theorem scanAfter_letter {d : Char} (hd : d ∈ ['0', '1', '?']) (r cs : List Char) (j : Nat) :
    scanAfter r (d :: cs) j = scanAfter (d :: r) cs (j + 1) := by
  simp only [List.mem_cons, List.not_mem_nil, or_false] at hd
  rcases hd with rfl | rfl | rfl <;> simp [scanAfter, compileScan, keyOf, maskOf, bitsOf, wildcards]

theorem scanAfter_bad {c : Char} (hc : c ∉ ['0', '1', '?', ' ']) (r cs : List Char) (j : Nat) :
    scanAfter r (c :: cs) j = .error (.badChar c j) := by
  simp only [List.mem_cons, List.not_mem_nil, or_false, not_or] at hc
  obtain ⟨h0, h1, hq, hs⟩ := hc
  simp [scanAfter, compileScan, h0, h1, hq, hs]

/-- Good characters only advance the position, and their letters are put before those scanned. -/
theorem scanAfter_append {good : List Char} (hgood : ∀ d ∈ good, d ∈ ['0', '1', '?', ' ']) (r cs : List Char)
    (j : Nat) :
    scanAfter r (good ++ cs) j = scanAfter ((good.filter (· ≠ ' ')).reverse ++ r) cs (j + good.length) := by
  induction good generalizing r j with
  | nil => rfl
  | cons d good ih =>
    have hrest := ih fun e he => hgood e (List.mem_cons_of_mem d he)
    have hpos : j + (d :: good).length = j + 1 + good.length := by rw [List.length_cons]; omega
    rw [hpos, List.cons_append]
    by_cases hs : d = ' '
    · subst hs
      rw [scanAfter_space, hrest, List.filter_cons_of_neg (by simp)]
    · have hd : d ∈ ['0', '1', '?'] := by simpa [hs] using hgood d List.mem_cons_self
      rw [scanAfter_letter hd, hrest, List.filter_cons_of_pos (by simpa using hs), List.reverse_cons,
        List.append_assoc]
      rfl

theorem compilePattern_of_bad {p : String} {good rest : List Char} {c : Char} (hp : p.toList = good ++ c :: rest)
    (hgood : ∀ d ∈ good, d ∈ ['0', '1', '?', ' ']) (hc : c ∉ ['0', '1', '?', ' ']) :
    compilePattern p = .error (.badChar c good.length) := by
  rw [compilePattern_eq_scanAfter, hp, scanAfter_append hgood, scanAfter_bad hc, Nat.zero_add]

/-- The pattern that some letters, the last one first, compile to. -/
def compiledOf (r : List Char) : Compiled := ⟨keyOf r >>> wildcards r, maskOf r >>> wildcards r, wildcards r⟩

theorem compilePattern_of_good {p : String} (hgood : ∀ d ∈ p.toList, d ∈ ['0', '1', '?', ' ']) :
    compilePattern p = if 64 < (patternLetters p).length then .error (.tooLong (patternLetters p).length)
      else .ok (compiledOf (patternLetters p).reverse) := by
  have hscan := scanAfter_append hgood [] [] 0
  rw [List.append_nil, List.append_nil, scanAfter_nil, List.length_reverse] at hscan
  exact hscan

/-- A pattern that compiles has at most 64 letters, since a bad character or one letter more is an error. -/
theorem compilePattern_ok {p : String} {c : Compiled} (h : compilePattern p = .ok c) :
    (patternLetters p).length ≤ 64 ∧ c = compiledOf (patternLetters p).reverse := by
  cases hbad : p.toList.find? (fun d => decide (d ∉ ['0', '1', '?', ' '])) with
  | some d =>
    obtain ⟨hd, good, rest, hp, hgood⟩ := List.find?_eq_some_iff_append.1 hbad
    have herror := compilePattern_of_bad hp (by simpa using hgood) (of_decide_eq_true hd)
    exact absurd (herror.symm.trans h) (by simp)
  | none =>
    have hgood : ∀ d ∈ p.toList, d ∈ ['0', '1', '?', ' '] := fun d hd =>
      Decidable.not_not.1 fun hn => List.find?_eq_none.1 hbad d hd (decide_eq_true hn)
    rw [compilePattern_of_good hgood] at h
    split at h
    · cases h
    · exact ⟨by omega, (Except.ok.inj h).symm⟩

/-! ### The bits of key and mask -/

theorem getLsbD_bitsOf (f : Char → Bool) (r : List Char) {k : Nat} (hk : k < 64) :
    (bitsOf f r).getLsbD k = r[k]?.any f := by
  induction r generalizing k with
  | nil => simp [bitsOf]
  | cons c r ih =>
    cases k with
    | zero => cases hc : f c <;> simp [bitsOf, hc]
    | succ k =>
      have hlow : (if f c then 1#64 else 0#64).getLsbD (k + 1) = false := by split <;> simp
      rw [bitsOf, BitVec.getLsbD_or, BitVec.getLsbD_shiftLeft, hlow, Nat.add_sub_cancel, ih (by omega)]
      simp [hk]

theorem getElem?_of_lt_wildcards {r : List Char} {k : Nat} (hk : k < wildcards r) : r[k]? = some '?' := by
  induction r generalizing k with
  | nil => simp [wildcards] at hk
  | cons c r ih =>
    unfold wildcards at hk
    split at hk
    · next hc =>
      cases k with
      | zero => simp [hc]
      | succ k => exact ih (by omega)
    · omega

/-- R93: the final shift of R91 drops wildcards alone, so shifting back gives the full-position value. -/
theorem bitsOf_shift_back {f : Char → Bool} (hf : f '?' = false) (r : List Char) :
    (bitsOf f r >>> wildcards r) <<< wildcards r = bitsOf f r := by
  apply BitVec.eq_of_getLsbD_eq
  intro k hk
  rw [BitVec.getLsbD_shiftLeft, BitVec.getLsbD_ushiftRight]
  by_cases hlow : k < wildcards r
  · rw [getLsbD_bitsOf f r hk, getElem?_of_lt_wildcards hlow]
    simp [hlow, hf]
  · rw [Nat.add_sub_cancel' (Nat.le_of_not_lt hlow)]
    simp [hlow, hk]

theorem fullKey_compiledOf (r : List Char) : (compiledOf r).fullKey = keyOf r := bitsOf_shift_back rfl r

theorem fullMask_compiledOf (r : List Char) : (compiledOf r).fullMask = maskOf r := bitsOf_shift_back rfl r

/-! ### What a compiled pattern accepts -/

theorem accepts_compiledOf_iff_and (r : List Char) (w : Word) :
    (compiledOf r).accepts w = true ↔ w.setWidth 64 &&& maskOf r = keyOf r := by
  rw [← fullKey_compiledOf, ← fullMask_compiledOf]
  refine ⟨and_fullMask_of_accepts, fun h => beq_iff_eq.2 ?_⟩
  rw [fullKey_compiledOf, fullMask_compiledOf] at h
  show w.setWidth 64 >>> wildcards r &&& maskOf r >>> wildcards r = keyOf r >>> wildcards r
  rw [← BitVec.ushiftRight_and_distrib, h]

/-- The comparison under the mask looks at the literals, each at its own bit. -/
theorem and_maskOf_iff {r : List Char} (hr : r.length ≤ 64) (w : Word) :
    w.setWidth 64 &&& maskOf r = keyOf r ↔ ∀ k, k < r.length →
      (r[k]? = some '1' → w.getLsbD k = true) ∧ (r[k]? = some '0' → w.getLsbD k = false) := by
  have hbit : ∀ k, k < 64 → ((w.setWidth 64 &&& maskOf r).getLsbD k = (keyOf r).getLsbD k ↔
      (r[k]? = some '1' → w.getLsbD k = true) ∧ (r[k]? = some '0' → w.getLsbD k = false)) := by
    intro k hk
    rw [BitVec.getLsbD_and, BitVec.getLsbD_setWidth, maskOf, keyOf, getLsbD_bitsOf _ _ hk, getLsbD_bitsOf _ _ hk]
    cases r[k]? with
    | none => simp
    | some c =>
      by_cases h1 : c = '1'
      · simp [h1, hk]
      · by_cases h0 : c = '0' <;> simp [h0, h1, hk]
  rw [BitVec.eq_of_getLsbD_eq_iff]
  constructor
  · exact fun h k hk => (hbit k (by omega)).1 (h k (by omega))
  · intro h k hk
    refine (hbit k hk).2 ?_
    by_cases hlen : k < r.length
    · exact h k hlen
    · simp [List.getElem?_eq_none (Nat.le_of_not_lt hlen)]

/-- Letter `i` of `n` stands for bit n - 1 - i. -/
theorem accepts_compiledOf_reverse_iff {l : List Char} (hl : l.length ≤ 64) (w : Word) :
    (compiledOf l.reverse).accepts w = true ↔ ∀ i, i < l.length →
      (l[i]? = some '1' → w.getLsbD (l.length - 1 - i) = true) ∧
      (l[i]? = some '0' → w.getLsbD (l.length - 1 - i) = false) := by
  rw [accepts_compiledOf_iff_and, and_maskOf_iff (by rwa [List.length_reverse]), List.length_reverse]
  constructor
  · intro h i hi
    have hback : l.length - 1 - (l.length - 1 - i) = i := by omega
    have hlt : l.length - 1 - i < l.length := by omega
    simpa [List.getElem?_reverse hlt, hback] using h (l.length - 1 - i) hlt
  · intro h k hk
    have hback : l.length - 1 - (l.length - 1 - k) = k := by omega
    simpa [List.getElem?_reverse hk, hback] using h (l.length - 1 - k) (by omega)

/-! ### Overlaps -/

theorem keyOf_and_maskOf (r : List Char) : keyOf r &&& maskOf r = keyOf r := by
  apply BitVec.eq_of_getLsbD_eq
  intro k hk
  rw [BitVec.getLsbD_and, keyOf, maskOf, getLsbD_bitsOf _ _ hk, getLsbD_bitsOf _ _ hk]
  cases r[k]? with
  | none => rfl
  | some c => by_cases h1 : c = '1' <;> simp [h1]

/-- Where two keys agree under both masks, the word with the 1s of both meets the first: at a literal 0 of the first the
second has no literal 1. -/
theorem or_and_eq_of_agree {n : Nat} {k₁ m₁ k₂ m₂ : BitVec n} (h₁ : k₁ &&& m₁ = k₁) (h₂ : k₂ &&& m₂ = k₂)
    (h : (k₁ ^^^ k₂) &&& m₁ &&& m₂ = 0#n) : (k₁ ||| k₂) &&& m₁ = k₁ := by
  ext i hi
  have hb₁ := congrArg (·[i]) h₁
  have hb₂ := congrArg (·[i]) h₂
  have hb := congrArg (·[i]) h
  simp only [BitVec.getElem_and, BitVec.getElem_or, BitVec.getElem_xor, BitVec.getElem_zero] at hb₁ hb₂ hb ⊢
  cases hk : k₁[i] with
  | true => simpa [hk] using hb₁
  | false =>
    rw [← hb₂]
    simpa [hk, Bool.and_right_comm] using hb

/-- The letters of a 32-letter pattern stand for bits of a word. -/
theorem setWidth_keyOf {r : List Char} (hr : r.length = 32) : ((keyOf r).setWidth 32).setWidth 64 = keyOf r := by
  apply BitVec.eq_of_getLsbD_eq
  intro k hk
  rw [BitVec.getLsbD_setWidth, BitVec.getLsbD_setWidth, keyOf, getLsbD_bitsOf _ _ hk]
  by_cases hlow : k < 32
  · simp [hk, hlow]
  · simp [hlow, List.getElem?_eq_none (show r.length ≤ k by omega)]

/-- The word with the literal 1s of two 32-letter patterns. -/
def bothKeys (r q : List Char) : Word := (keyOf r).setWidth 32 ||| (keyOf q).setWidth 32

theorem bothKeys_comm (r q : List Char) : bothKeys r q = bothKeys q r := BitVec.or_comm ..

theorem accepts_bothKeys {r q : List Char} (hr : r.length = 32) (hq : q.length = 32)
    (h : (compiledOf r).overlaps (compiledOf q) = true) : (compiledOf r).accepts (bothKeys r q) = true := by
  rw [Compiled.overlaps, beq_iff_eq, fullKey_compiledOf, fullKey_compiledOf, fullMask_compiledOf,
    fullMask_compiledOf] at h
  rw [accepts_compiledOf_iff_and, bothKeys, BitVec.setWidth_or, setWidth_keyOf hr, setWidth_keyOf hq]
  exact or_and_eq_of_agree (keyOf_and_maskOf r) (keyOf_and_maskOf q) h

theorem overlaps_comm (a b : Compiled) : a.overlaps b = b.overlaps a := by
  rw [Compiled.overlaps, Compiled.overlaps, BitVec.xor_comm, BitVec.and_assoc, BitVec.and_assoc,
    BitVec.and_comm a.fullMask]

/-! ### Building a registry -/

/-- The entry is what its row is built as: its pattern compiles to its key and mask and has the length of a word. -/
def Entry.IsBuilt (e : Entry) : Prop :=
  compilePattern e.row.pattern = .ok e.compiled ∧ (patternLetters e.row.pattern).length = 32

theorem appendRow_of_isBuilt {built : List Entry} {e : Entry} (he : e.IsBuilt)
    (hnone : ∀ b ∈ built, b.compiled.overlaps e.compiled = false) : appendRow built e.row = .ok (built ++ [e]) := by
  obtain ⟨hcompile, hlength⟩ := he
  have hfind : built.find? (fun b => b.compiled.overlaps e.compiled) = none :=
    List.find?_eq_none.2 (fun b hb => by simp [hnone b hb])
  simp only [appendRow, hcompile, hlength, if_true, hfind]

/-- Rows whose entries do not overlap are all appended. -/
theorem appendRows_of_isBuilt {built new : List Entry} (hnew : ∀ e ∈ new, e.IsBuilt)
    (hpairwise : (built ++ new).Pairwise (fun a b => a.compiled.overlaps b.compiled = false)) :
    appendRows built (new.map (·.row)) = .ok (built ++ new) := by
  induction new generalizing built with
  | nil => rw [List.append_nil]; rfl
  | cons e new ih =>
    obtain ⟨-, -, hcross⟩ := List.pairwise_append.1 hpairwise
    have hrow := appendRow_of_isBuilt (hnew e List.mem_cons_self) (fun b hb => hcross b hb e List.mem_cons_self)
    rw [List.append_cons] at hpairwise ⊢
    rw [List.map_cons, appendRows, hrow]
    exact ih (fun e' he' => hnew e' (List.mem_cons_of_mem e he')) hpairwise

theorem isBuilt_registry : ∀ e ∈ registry true, e.IsBuilt := by
  unfold Entry.IsBuilt
  decide

theorem registry_sublist (extM : Bool) : (registry extM).Sublist (registry true) := by
  cases extM with
  | true => exact List.Sublist.refl _
  | false => exact List.sublist_append_left baseRows mExtRows

/-! ### The statements about patterns and the registry -/

/-- Settles O27: no two rows overlap, and a word that both accept would make them. -/
theorem noWordMatchesTwoRows : Obligations.NoWordMatchesTwoRows := fun _ _ he _ he' => entry_eq_of_accepts he he'

/-- Settles O28: each row compiles to its entry, and no two overlap. -/
theorem registryIsBuiltFromPatterns : Obligations.RegistryIsBuiltFromPatterns := by
  refine ⟨fun extM => ?_, rfl, rfl, by decide⟩
  have hsub := registry_sublist extM
  exact appendRows_of_isBuilt (built := []) (fun e he => isBuilt_registry e (hsub.subset he))
    (registry_pairwise.sublist hsub)

/-- Settles O29: `resolve` is the search for the first entry that accepts the word. -/
theorem firstMatchWins : Obligations.FirstMatchWins := by
  refine fun reg w => ⟨fun e => ?_, ?_⟩
  · rw [resolve, List.find?_eq_some_iff_append]
    simp only [Bool.not_eq_true']
    constructor
    · rintro ⟨ha, before, after, hreg, hbefore⟩
      exact ⟨before, after, hreg, ha, hbefore⟩
    · rintro ⟨before, after, hreg, ha, hbefore⟩
      exact ⟨ha, before, after, hreg, hbefore⟩
  · simp only [resolve, List.find?_eq_none, Bool.not_eq_true]

/-- Settles O32: the comparison under the full-position mask, and it literal by literal. -/
theorem patternMatchesItsLiterals : Obligations.PatternMatchesItsLiterals := by
  intro p c h w
  obtain ⟨hlength, rfl⟩ := compilePattern_ok h
  refine ⟨accepts_compiledOf_reverse_iff hlength w, ?_⟩
  rw [fullMask_compiledOf, fullKey_compiledOf]
  exact accepts_compiledOf_iff_and _ w

/-- Settles O33: the scan goes over the good characters and stops at the first bad one, and the length is tested after
the last. -/
theorem patternErrors : Obligations.PatternErrors := by
  refine fun p => ⟨fun good c rest => compilePattern_of_bad, fun hgood => ?_⟩
  rw [compilePattern_of_good hgood]
  exact ⟨fun hlong => if_pos hlong, fun hshort => ⟨_, if_neg (Nat.not_lt.2 hshort)⟩⟩

/-- Settles O34: a common word makes the check hold, and where the check holds the literal 1s of both patterns make a
common word. -/
theorem overlapMeansACommonWord : Obligations.OverlapMeansACommonWord := by
  intro p q c d hc hd hp hq
  obtain ⟨-, rfl⟩ := compilePattern_ok hc
  obtain ⟨-, rfl⟩ := compilePattern_ok hd
  rw [← List.length_reverse] at hp hq
  refine ⟨fun h => ⟨bothKeys _ _, accepts_bothKeys hp hq h, ?_⟩, fun ⟨w, ha, hb⟩ => overlaps_of_accepts ha hb⟩
  rw [bothKeys_comm]
  exact accepts_bothKeys hq hp (overlaps_comm _ _ ▸ h)

end Sys2Proof

/-! SUPPORT. What a step and a run do to the session, and the statements about them (35_decode_dispatch.md R102 to
R119). -/

namespace Sys2Proof.Machine

/-! ### The step of a fetched word -/

theorem step_of_decode_ok {s : State} {w : Word} {i : Instr} (hterm : s.session.terminal = false)
    (hfetch : s.fetch = .ok w) (hd : decode s.cfg w = .ok i) : step s = exec i s := by
  rw [step_of_not_terminal hterm, State.execute, hfetch]
  simp only [hd]

theorem step_of_fetch_error {s : State} {f : Fault} (hterm : s.session.terminal = false) (hfetch : s.fetch = .error f) :
    step s = .next (s.takeFault f) := by
  rw [step_of_not_terminal hterm, State.execute, hfetch]

theorem decodeBytes_four_ok {cfg : Config} {b0 b1 b2 b3 : Byte} {i : Instr} {rest : List Byte}
    (h : decodeBytes cfg [b0, b1, b2, b3] = .ok (i, rest)) : decode cfg (wordOfBytes b0 b1 b2 b3) = .ok i := by
  unfold decodeBytes at h
  cases hd : decode cfg (wordOfBytes b0 b1 b2 b3) with
  | ok j =>
    simp only [hd, Except.ok.injEq, Prod.mk.injEq] at h
    rw [h.1]
  | error e => simp [hd] at h

/-- Settles O38: the word the fetch reads is made of the four bytes. -/
theorem stepRunsTheDecodedInstruction : Obligations.StepRunsTheDecodedInstruction := fun _ _ hterm hw hd =>
  step_of_decode_ok hterm (memRead_of_inWindow hw) (decodeBytes_four_ok hd)

/-- Settles O18: the fetch comes first, and a word without an entry does not decode. -/
theorem fetchAndDecodeFaults : Obligations.FetchAndDecodeFaults := by
  refine fun s hterm => ⟨fun hw => step_of_fetch_error hterm (memRead_of_not_inWindow hw), fun w hfetch hnone => ?_⟩
  have hd : decode s.cfg w = .error (.invalidInstruction w) := by rw [decode, hnone]
  exact step_of_decode_error hterm hfetch hd

/-! ### A placed word -/

theorem wordOfBytes_extractLsb' (v : Word) :
    wordOfBytes (v.extractLsb' 0 8) (v.extractLsb' 8 8) (v.extractLsb' 16 8) (v.extractLsb' 24 8) = v :=
  append_bytes v

theorem decode_of_decodeTableWord {w : Nat} {i : Instr} (h : decodeTableWord 32 w = some i) :
    decode Config.full (tableWord 32 w) = .ok i := by
  unfold decodeTableWord at h
  dsimp only at h
  split at h
  · next j rest hd =>
    cases h
    rw [← decodeBytes_four_ok hd, wordOfBytes_extractLsb']
  · cases h

theorem admitting_pmemSize (cfg : Config) (w : Word) : (cfg.admitting w).pmemSize = cfg.pmemSize := by
  unfold Config.admitting
  split <;> rfl

/-- The window does not depend on the registry. -/
theorem inWindow_admitting (cfg : Config) (w addr : Word) (n : Nat) :
    inWindow (cfg.admitting w) addr n = inWindow cfg addr n := by
  rw [inWindow, inWindow, admitting_pmemSize]

theorem placeWord_terminal (s : State) (w : Word) : (s.placeWord w).session.terminal = false := by
  show (if s.session.terminal then Session.stop else s.session).terminal = false
  split
  · rfl
  · next h => exact Bool.eq_false_of_not_eq_true h

/-- A word fits at the pc, where it fits already or else at the start of the bank. -/
theorem placeWord_inWindow {s : State} (hcfg : s.cfg.ok = true) (w : Word) :
    inWindow s.cfg (s.placeWord w).pc 4 = true := by
  show inWindow s.cfg (if inWindow s.cfg s.pc 4 then s.pc else resetPc) 4 = true
  split
  · assumption
  · obtain ⟨-, hsize⟩ := (ok_iff s.cfg).1 hcfg
    have hbase : resetPc.toNat = pmemBase := rfl
    rw [inWindow_iff, hbase]
    omega

theorem placeWord_fetch {s : State} (hcfg : s.cfg.ok = true) (w : Word) : (s.placeWord w).fetch = .ok w :=
  fetch_of_writeLE (t := s.placeWord w) (addr := (s.placeWord w).pc) rfl
    ((inWindow_admitting ..).trans (placeWord_inWindow hcfg w))

/-- Settles O39: the placed word is fetched, and the registry it is placed with decodes it as the whole table does. -/
theorem placedWordRuns : Obligations.PlacedWordRuns := fun s _ _ hcfg hd =>
  ⟨placeWord_terminal s _, step_of_decode_ok (placeWord_terminal s _) (placeWord_fetch hcfg _)
    (decode_admitting (decode_of_decodeTableWord hd))⟩

/-! ### The session after a step -/

theorem terminal_eq_false_iff {x : Session} : x.terminal = false ↔ x = .stop ∨ x = .running := by
  cases x <;> simp [Session.terminal]

/-- Settles O16: of the cases of a step only EBREAK's leads to End, and its word is the only one that decodes to it. -/
theorem onlyEbreakEnds : Obligations.OnlyEbreakEnds := by
  intro s t p c hterm ht hended
  rcases step_cases s with ⟨h, -⟩ | ⟨-, ⟨w, i, u, hf, hd, h, hc⟩ | ⟨a, h⟩ | h⟩
  · exact absurd (h.symm.trans hterm) (by decide)
  all_goals
    rw [h] at ht
    cases ht
  · rcases hc.session with hsession | ⟨rfl, hsession, hpc, -⟩
    · rw [← hsession, hended] at hterm
      cases hterm
    · obtain ⟨hword, -⟩ := encodeOfDecode s.cfg w .ebreak hd
      obtain ⟨rfl, rfl⟩ := Session.ended.inj (hended.symm.trans hsession)
      subst hword
      exact ⟨hf, rfl, rfl, hpc⟩
  · cases hended
  · cases hended

/-- Settles O41, by the cases of a step. -/
theorem stepMovesTheSession : Obligations.StepMovesTheSession := by
  intro s
  rcases step_cases s with ⟨-, h⟩ | ⟨hterm, ⟨w, i, t, -, -, h, hc⟩ | ⟨a, h⟩ | h⟩
  · exact ⟨s, h, rfl, .inl rfl⟩
  · refine ⟨t, h, hc.cfg, ?_⟩
    rcases hc.session with hsession | ⟨-, hsession, -, -⟩
    · exact .inl hsession
    · exact .inr ⟨hterm, .inl hsession⟩
  · exact ⟨_, h, rfl, .inr ⟨hterm, .inr ⟨_, rfl⟩⟩⟩
  · exact ⟨_, h, rfl, .inr ⟨hterm, .inr ⟨_, rfl⟩⟩⟩

/-- Settles O42: an instruction that completes counts one and has not gone to Abort, and a fault counts none. -/
theorem retiredCountsOkAndHalt : Obligations.RetiredCountsOkAndHalt := by
  intro s t ht
  rcases step_cases s with ⟨hterm, h⟩ | ⟨hterm, ⟨w, i, u, -, -, h, hc⟩ | ⟨a, h⟩ | h⟩
  all_goals
    rw [h] at ht
    cases ht
  · exact ⟨fun _ => rfl, fun hnot => absurd (hterm.symm.trans hnot) (by decide)⟩
  · refine ⟨?_, fun _ _ => hc.count⟩
    rintro (hend | ⟨p, c, f, habort⟩)
    · exact absurd (hend.symm.trans hterm) (by decide)
    · rcases hc.session with hsession | ⟨-, hsession, -, -⟩
      · rw [← hsession, habort] at hterm
        cases hterm
      · exact absurd (habort.symm.trans hsession) (by simp)
  · exact ⟨fun _ => rfl, fun _ hnot => absurd rfl (hnot _ _ _)⟩
  · exact ⟨fun _ => rfl, fun _ hnot => absurd rfl (hnot _ _ _)⟩

/-! ### An instruction in a running session -/

/-- `s.pause` of a running state: the session written as Stop, every other field that of `s` by definition. -/
def State.stopped (s : State) : State := { s with session := .stop }

theorem pause_of_running {s : State} (h : s.session = .running) : s.pause = s.stopped := if_pos h

theorem pause_of_not_running {s : State} (h : s.session ≠ .running) : s.pause = s := if_neg h

theorem pause_session_ne_running (s : State) : s.pause.session ≠ .running := by
  unfold State.pause
  split
  · simp
  · assumption

/-- The two outcomes are the same next state, paused in the second. -/
def SameButPaused (x y : Host.Outcome State Fault Refusal) : Prop := ∃ t, x = .next t ∧ y = .next t.pause

theorem retire_stopped (s : State) : s.stopped.retire = s.retire.stopped := by
  unfold State.retire
  show (if s.retired = BitVec.allOnes 64 then _ else _) = _
  split <;> rfl

theorem commit_stopped {e : Effect} (h : e.st.session = .running) :
    ({ e with st := e.st.stopped } : Effect).commit = e.commit.pause := by
  obtain ⟨st, dnpc, halt⟩ := e
  cases halt with
  | none =>
    have hrunning : (Effect.commit ⟨st, dnpc, none⟩).session = .running := (commit_session _).trans h
    rw [pause_of_running hrunning]
    exact retire_stopped { st.restoreZero with pc := dnpc }
  | some c =>
    have hended : (Effect.commit ⟨st, dnpc, some c⟩).session ≠ .running := by simp [commit_session]
    rw [pause_of_not_running hended]
    exact congrArg (fun u : State => { u with session := .ended st.pc c })
      (retire_stopped { st.restoreZero with pc := dnpc })

theorem sameButPaused_ok {s : State} {e : Effect} (h : e.st.session = .running) :
    SameButPaused (finish s (.ok e)) (finish s.stopped (.ok { e with st := e.st.stopped })) :=
  ⟨_, rfl, congrArg _ (commit_stopped h)⟩

theorem sameButPaused_takeFault (s : State) (f : Fault) :
    SameButPaused (.next (s.takeFault f)) (.next (s.stopped.takeFault f)) := ⟨_, rfl, rfl⟩

/-- The outcomes come from the same shape of effect with the same operands, in `s` and in `u`. -/
inductive SameShape (s u : State) : Host.Outcome State Fault Refusal → Host.Outcome State Fault Refusal → Prop
  | result (o : DecodedOperands) (v : Word) : SameShape s u (writeResult o v s) (writeResult o v u)
  | jump (o : DecodedOperands) (target : Word) : SameShape s u (jumpAndLink o target s) (jumpAndLink o target u)
  | branch (c : Bool) (o : DecodedOperands) : SameShape s u (branchIf c o s) (branchIf c o u)
  | load (o : DecodedOperands) (w : Width) (ext : Word → Word) :
      SameShape s u (loadResult o w ext s) (loadResult o w ext u)
  | store (o : DecodedOperands) (w : Width) : SameShape s u (storeOperand o w s) (storeOperand o w u)
  | halt : SameShape s u (execEbreak s) (execEbreak u)

/-- No operand of an instruction depends on the session. -/
theorem exec_sameShape (i : Instr) (s : State) : SameShape s s.stopped (exec i s) (exec i s.stopped) :=
  match i with
  | .auipc _ _ | .lui _ _ => .result _ _
  | .addi _ _ _ | .slti _ _ _ | .sltiu _ _ _ | .xori _ _ _ | .ori _ _ _ | .andi _ _ _ => .result _ _
  | .slli _ _ _ | .srli _ _ _ | .srai _ _ _ => .result _ _
  | .add _ _ _ | .sub _ _ _ | .xor _ _ _ | .or _ _ _ | .and _ _ _ => .result _ _
  | .sll _ _ _ | .srl _ _ _ | .sra _ _ _ | .slt _ _ _ | .sltu _ _ _ => .result _ _
  | .mul _ _ _ | .mulh _ _ _ | .mulhsu _ _ _ | .mulhu _ _ _ => .result _ _
  | .div _ _ _ | .divu _ _ _ | .rem _ _ _ | .remu _ _ _ => .result _ _
  | .jal _ _ | .jalr _ _ _ => .jump _ _
  | .beq _ _ _ | .bne _ _ _ | .blt _ _ _ | .bge _ _ _ | .bltu _ _ _ | .bgeu _ _ _ => .branch _ _
  | .lb _ _ _ | .lh _ _ _ | .lw _ _ _ | .lbu _ _ _ | .lhu _ _ _ => .load _ _ _
  | .sb _ _ _ | .sh _ _ _ | .sw _ _ _ => .store _ _
  | .ebreak => .halt

theorem loadResult_of_inWindow {o : DecodedOperands} {w : Width} {s : State} (ext : Word → Word)
    (hw : inWindow s.cfg o.address w.bytes = true) :
    loadResult o w ext s = writeResult o (ext (Memory.readLE s.mem o.address.toNat w)) s := by
  rcases loadResult_spec o w ext s with ⟨-, h⟩ | ⟨hout, -⟩
  · exact h
  · exact absurd (hw.symm.trans hout) (by decide)

theorem loadResult_of_not_inWindow {o : DecodedOperands} {w : Width} {s : State} (ext : Word → Word)
    (hw : inWindow s.cfg o.address w.bytes = false) :
    loadResult o w ext s = .next (s.takeFault (.outOfBoundAccess o.address)) := by
  rcases loadResult_spec o w ext s with ⟨hin, -⟩ | ⟨-, h⟩
  · exact absurd (hw.symm.trans hin) (by decide)
  · exact h

/-- The effect of a store inside the window. -/
def storedEffect (o : DecodedOperands) (w : Width) (s : State) : Effect :=
  { Effect.start s with st := { s with mem := Memory.writeLE s.mem o.address.toNat o.src2 w } }

theorem storeOperand_of_inWindow {o : DecodedOperands} {w : Width} {s : State}
    (hw : inWindow s.cfg o.address w.bytes = true) : storeOperand o w s = finish s (.ok (storedEffect o w s)) := by
  rw [storeOperand, Effect.store, start_st, memWrite_of_inWindow o.src2 hw]
  rfl

theorem storeOperand_of_not_inWindow {o : DecodedOperands} {w : Width} {s : State}
    (hw : inWindow s.cfg o.address w.bytes = false) :
    storeOperand o w s = .next (s.takeFault (.outOfBoundAccess o.address)) := by
  rw [storeOperand, Effect.store, start_st, memWrite_of_not_inWindow o.src2 hw]
  rfl

theorem sameButPaused_of_sameShape {s : State} (h : s.session = .running) {x y : Host.Outcome State Fault Refusal}
    (hxy : SameShape s s.stopped x y) : SameButPaused x y := by
  cases hxy with
  | result o v => exact sameButPaused_ok (e := (Effect.start s).writeReg o.rd v) h
  | jump o target => exact sameButPaused_ok (e := ((Effect.start s).setNextPc target).writeReg o.rd s.snpc) h
  | branch c o =>
    cases c with
    | true => exact sameButPaused_ok (e := (Effect.start s).setNextPc (s.pc + o.imm)) h
    | false => exact sameButPaused_ok (e := Effect.start s) h
  | load o w ext =>
    cases hw : inWindow s.cfg o.address w.bytes with
    | true =>
      rw [loadResult_of_inWindow ext hw, loadResult_of_inWindow (s := s.stopped) ext hw]
      exact sameButPaused_ok (e := (Effect.start s).writeReg o.rd _) h
    | false =>
      rw [loadResult_of_not_inWindow ext hw, loadResult_of_not_inWindow (s := s.stopped) ext hw]
      exact sameButPaused_takeFault s _
  | store o w =>
    cases hw : inWindow s.cfg o.address w.bytes with
    | true =>
      rw [storeOperand_of_inWindow hw, storeOperand_of_inWindow (s := s.stopped) hw]
      exact sameButPaused_ok (e := storedEffect o w s) h
    | false =>
      rw [storeOperand_of_not_inWindow hw, storeOperand_of_not_inWindow (s := s.stopped) hw]
      exact sameButPaused_takeFault s _
  | halt => exact sameButPaused_ok (s := s) (e := (Effect.start s).haltWith (s.readReg haltRetReg)) h

/-- One pass of the run loop is the step from the paused state, its next state paused. -/
theorem sameButPaused_execute {s : State} (h : s.session = .running) : SameButPaused s.execute s.stopped.execute := by
  have hfetch : s.stopped.fetch = s.fetch := rfl
  have hcfg : s.stopped.cfg = s.cfg := rfl
  unfold State.execute
  rw [hfetch, hcfg]
  cases s.fetch with
  | error f => exact sameButPaused_takeFault s f
  | ok w =>
    cases hd : decode s.cfg w with
    | error e =>
      simp only [hd]
      exact sameButPaused_takeFault s (.invalidInstruction s.pc)
    | ok i =>
      simp only [hd]
      exact sameButPaused_of_sameShape h (exec_sameShape i s)

/-! ### Runs of the machine -/

theorem run_succ_of_next {M : Host.Core} {s t : M.State} (h : M.step s = .next t) (n : Nat) :
    Host.Core.run M (n + 1) s = Host.Core.run M n t := by
  rw [Host.Core.run, h]

theorem run_add_of_next {M : Host.Core} {a : Nat} {s t : M.State} (h : Host.Core.run M a s = .next t) (b : Nat) :
    Host.Core.run M (a + b) s = Host.Core.run M b t := by
  induction a generalizing s with
  | zero =>
    cases h
    rw [Nat.zero_add]
  | succ a ih =>
    cases hstep : M.step s with
    | next u =>
      rw [run_succ_of_next hstep] at h
      rw [Nat.add_right_comm, run_succ_of_next hstep, ih h]
    | fault f | refused f =>
      rw [Host.Core.run, hstep] at h
      cases h

theorem run_of_terminal {s : State} (h : s.session.terminal = true) (n : BitVec 64) : s.run n = .next s := if_pos h

theorem coreRun_of_terminal {s : State} (h : s.session.terminal = true) (n : Nat) :
    Host.Core.run core n s = .next s := by
  induction n with
  | zero => rfl
  | succ n ih => exact (run_succ_of_next (M := core) (step_of_terminal h) n).trans ih

/-- A step stays in Running or goes to End or Abort. -/
theorem step_session_ne_stop {s t : State} (h : step s = .next t) (hs : s.session ≠ .stop) : t.session ≠ .stop := by
  obtain ⟨u, hu, -, hsession⟩ := stepMovesTheSession s
  cases h.symm.trans hu
  rcases hsession with hsame | ⟨-, hended | ⟨f, rfl⟩⟩
  · exact hsame ▸ hs
  · simp [hended]
  · simp

/-- The loop of a run is that many steps from the paused state. -/
theorem runLoop_eq_coreRun (n : Nat) {s : State} (hs : s.session ≠ .stop) :
    ∃ t, State.runLoop n s = .next t ∧ Host.Core.run core n s.pause = .next t.pause := by
  induction n generalizing s with
  | zero => exact ⟨s, rfl, rfl⟩
  | succ n ih =>
    rw [State.runLoop]
    cases hterm : s.session.terminal with
    | true =>
      have hpause : s.pause = s := pause_of_not_running (fun h => by simp [h, Session.terminal] at hterm)
      exact ⟨s, rfl, by rw [hpause]; exact coreRun_of_terminal hterm _⟩
    | false =>
      have hrunning : s.session = .running := (terminal_eq_false_iff.1 hterm).resolve_left hs
      obtain ⟨t, ht, hpaused⟩ := sameButPaused_execute hrunning
      have htstop : t.session ≠ .stop := step_session_ne_stop ((step_of_not_terminal hterm).trans ht) hs
      have hstep : step s.pause = .next t.pause := by rw [pause_of_running hrunning]; exact hpaused
      rw [ht, run_succ_of_next (M := core) hstep]
      exact ih htstop

/-! ### The statements about runs -/

/-- Settles O40: both test the session first. -/
theorem terminalSessionsStay : Obligations.TerminalSessionsStay := fun _ n h =>
  ⟨step_of_terminal h, run_of_terminal h n⟩

/-- Settles O43: a run marks the session Running, loops, and pauses. -/
theorem runIsIteratedStep : Obligations.RunIsIteratedStep := by
  intro n s hs
  cases hterm : s.session.terminal with
  | true => exact (run_of_terminal hterm n).trans (coreRun_of_terminal hterm _).symm
  | false =>
    have hpause : State.pause { s with session := .running } = s := by
      rw [pause_of_running rfl, State.stopped, ← (terminal_eq_false_iff.1 hterm).resolve_right hs]
    obtain ⟨t, hloop, hcore⟩ := runLoop_eq_coreRun n.toNat (s := { s with session := .running }) (by simp)
    rw [hpause] at hcore
    rw [hcore, State.run, hterm, hloop]
    rfl

theorem run_session_ne_running {s t : State} {n : BitVec 64} (hs : s.session ≠ .running) (h : s.run n = .next t) :
    t.session ≠ .running := by
  unfold State.run at h
  split at h
  · cases h
    exact hs
  · split at h
    · cases h
      exact pause_session_ne_running _
    · cases h
    · cases h

/-- Settles O44: steps compose, and a run does not end in Running. -/
theorem runsCompose : Obligations.RunsCompose := by
  intro a b s t hs hsum h
  have hadd : (a + b).toNat = a.toNat + b.toNat := by rw [BitVec.toNat_add, Nat.mod_eq_of_lt hsum]
  rw [runIsIteratedStep _ t (run_session_ne_running hs h), runIsIteratedStep _ s hs, hadd]
  rw [runIsIteratedStep _ s hs] at h
  exact run_add_of_next h _

theorem hostQuit_eq {s : State} (hs : s.session ≠ .running) : s.hostQuit = { s with session := .quit } := if_neg hs

theorem bytesFrom_eq_of_mem {s t : State} (h : t.mem = s.mem) (a n : Nat) : t.bytesFrom a n = s.bytesFrom a n := by
  induction n generalizing a with
  | zero => rfl
  | succ n ih => rw [State.bytesFrom, State.bytesFrom, byteAt_eq_of_mem h, ih]

theorem readMemory_eq {s t : State} (hmem : t.mem = s.mem) (hcfg : t.cfg = s.cfg) (addr : Word) (len : Nat) :
    t.readMemory addr len = s.readMemory addr len := by
  rw [State.readMemory, State.readMemory, hcfg, bytesFrom_eq_of_mem hmem]

/-- Settles O46: quit replaces the session alone, and of the sessions a step can lead to none is Quit but one it was in
before. -/
theorem quitIsTerminal : Obligations.QuitIsTerminal := by
  refine ⟨fun s n hs => ?_, fun s t ht hquit => ?_⟩
  · rw [hostQuit_eq hs]
    exact ⟨rfl, run_of_terminal rfl n, rfl, fun _ => rfl, readMemory_eq rfl rfl⟩
  · obtain ⟨u, hu, -, hsession⟩ := stepMovesTheSession s
    cases ht.symm.trans hu
    rcases hsession with hsame | ⟨-, hended | ⟨f, rfl⟩⟩
    · exact hsame.symm.trans hquit
    · cases hended.symm.trans hquit
    · cases hquit

end Sys2Proof.Machine

/-! SUPPORT. What an instruction that only writes a result does, as its encoding and its effect give it, the shifts as
arithmetic, and the statements about the integer computational instructions (41_integer_computational.md). -/

namespace Sys2Proof.Machine

open Sys2Proof.Claim

/-! ### The fields of a word, by its format -/

theorem hasUJ_encodeUJ (imm : BitVec 20) (rd : Reg) (opcode : BitVec 7) :
    HasUJ (encodeUJ imm rd opcode) opcode rd :=
  ⟨fieldOpcode_encodeUJ .., fieldRd_encodeUJ ..⟩

theorem hasI_encodeI (imm : BitVec 12) (rs1 : Reg) (funct3 : BitVec 3) (rd : Reg) (opcode : BitVec 7) :
    HasI (encodeI imm rs1 funct3 rd opcode) opcode funct3 rd rs1 :=
  ⟨fieldOpcode_encodeI .., fieldFunct3_encodeI .., fieldRd_encodeI .., fieldRs1_encodeI ..⟩

theorem hasR_encodeR (funct7 : BitVec 7) (rs2 rs1 : Reg) (funct3 : BitVec 3) (rd : Reg) (opcode : BitVec 7) :
    HasR (encodeR funct7 rs2 rs1 funct3 rd opcode) opcode funct3 funct7 rd rs1 rs2 :=
  ⟨fieldOpcode_encodeR .., fieldFunct3_encodeR .., fieldFunct7_encodeR .., fieldRd_encodeR .., fieldRs1_encodeR ..,
    fieldRs2_encodeR ..⟩

theorem immOfU_encodeUJ (imm : BitVec 20) (rd : Reg) (opcode : BitVec 7) :
    immOfU (encodeUJ imm rd opcode) = sext imm <<< 12 := by
  rw [← sext_shiftLeft_fieldImmUJ, fieldImmUJ_encodeUJ]

theorem immOfI_encodeI (imm : BitVec 12) (rs1 : Reg) (funct3 : BitVec 3) (rd : Reg) (opcode : BitVec 7) :
    immOfI (encodeI imm rs1 funct3 rd opcode) = sext imm :=
  congrArg sext (fieldImmI_encodeI imm rs1 funct3 rd opcode)

/-! ### Instructions that only write a result -/

/-- The whole frame of an instruction whose effect is `writeResult`. -/
theorem writes_of_writeResult {i : Instr} {o : DecodedOperands} {v : Word} {s : State}
    (h : exec i s = writeResult o v s) : Writes i s o.rd v (s.pc + 4#32) := by
  obtain ⟨t, ht, hregs, hpc, hmem, hsession, hcfg, -, hcount⟩ := writeResult_spec o v s
  exact ⟨t, h.trans ht, ⟨hpc, hcfg, hcount⟩, hsession, byteAt_eq_of_mem hmem, hregs⟩

/-- An instruction of format I with opcode OP-IMM that writes `f src1 imm`. -/
theorem opImm_of_exec {mk : Reg → Reg → BitVec 12 → Instr} {funct3 : BitVec 3} {f : Word → Word → Word}
    (hencode : ∀ rd rs1 imm, encode (mk rd rs1 imm) = encodeI imm rs1 funct3 rd 0b0010011#7)
    (hexec : ∀ rd rs1 imm s,
      exec (mk rd rs1 imm) s = writeResult (operandsI rd rs1 imm s) (f (s.readReg rs1) (sext imm)) s) :
    OpImm mk funct3 f := by
  intro rd rs1 imm s
  rw [hencode, immOfI_encodeI]
  exact ⟨hasI_encodeI .., writes_of_writeResult (hexec rd rs1 imm s)⟩

/-- An immediate shift that writes `f src1 n`, where `n` is the shift amount its decoded immediate holds (R78). -/
theorem shiftImm_of_exec {mk : Reg → Reg → BitVec 5 → Instr} {funct3 : BitVec 3} {funct7 : BitVec 7}
    {f : Word → Nat → Word}
    (hencode : ∀ rd rs1 shamt, encode (mk rd rs1 shamt) = encodeR funct7 shamt rs1 funct3 rd 0b0010011#7)
    (hexec : ∀ rd rs1 shamt s, exec (mk rd rs1 shamt) s = writeResult (operandsI rd rs1 (funct7 ++ shamt) s)
      (f (s.readReg rs1) (operandsI rd rs1 (funct7 ++ shamt) s).immShamt) s) :
    ShiftImm mk funct3 funct7 f := by
  intro rd rs1 shamt s
  rw [hencode, ← immShamt_operandsI rd rs1 s funct7 shamt]
  exact ⟨hasR_encodeR .., writes_of_writeResult (hexec rd rs1 shamt s)⟩

/-- An instruction of format R with opcode OP that writes `f src1 src2`. -/
theorem opReg_of_exec {mk : Reg → Reg → Reg → Instr} {funct3 : BitVec 3} {funct7 : BitVec 7} {f : Word → Word → Word}
    (hencode : ∀ rd rs1 rs2, encode (mk rd rs1 rs2) = encodeR funct7 rs2 rs1 funct3 rd 0b0110011#7)
    (hexec : ∀ rd rs1 rs2 s,
      exec (mk rd rs1 rs2) s = writeResult (operandsR rd rs1 rs2 s) (f (s.readReg rs1) (s.readReg rs2)) s) :
    OpReg mk funct3 funct7 f := by
  intro rd rs1 rs2 s
  rw [hencode]
  exact ⟨hasR_encodeR .., writes_of_writeResult (hexec rd rs1 rs2 s)⟩

/-- A register shift that writes `f src1 n`, where `n` is the shift amount src2[4:0] (R78). -/
theorem opReg_of_exec_regShamt {mk : Reg → Reg → Reg → Instr} {funct3 : BitVec 3} {funct7 : BitVec 7}
    {f : Word → Nat → Word}
    (hencode : ∀ rd rs1 rs2, encode (mk rd rs1 rs2) = encodeR funct7 rs2 rs1 funct3 rd 0b0110011#7)
    (hexec : ∀ rd rs1 rs2 s, exec (mk rd rs1 rs2) s = writeResult (operandsR rd rs1 rs2 s)
      (f (s.readReg rs1) (operandsR rd rs1 rs2 s).regShamt) s) :
    OpReg mk funct3 funct7 (fun a b => f a (b.toNat % 32)) :=
  opReg_of_exec hencode fun rd rs1 rs2 s => by rw [hexec, regShamt_operandsR]

/-! ### Shifts as arithmetic -/

theorem shiftLeft_eq_ofNat (a : Word) (n : Nat) : a <<< n = BitVec.ofNat 32 (a.toNat * 2 ^ n) := by
  apply BitVec.eq_of_toNat_eq
  rw [BitVec.toNat_shiftLeft, BitVec.toNat_ofNat, Nat.shiftLeft_eq]

theorem ushiftRight_eq_ofNat (a : Word) (n : Nat) : a >>> n = BitVec.ofNat 32 (a.toNat / 2 ^ n) := by
  rw [← Nat.shiftRight_eq_div_pow, ← BitVec.toNat_ushiftRight, BitVec.ofNat_toNat, BitVec.setWidth_eq]

theorem sshiftRight_eq_ofInt (a : Word) (n : Nat) : a.sshiftRight n = BitVec.ofInt 32 (a.toInt / 2 ^ n) := by
  rw [BitVec.sshiftRight, Int.shiftRight_eq_div_pow, Nat.cast_pow, Nat.cast_ofNat]

/-! ### The statements -/

/-- Settles O1: the immediate the operand decoder shifts into place is w[31:12] above twelve zeros. -/
theorem upperImmediateResults : Obligations.UpperImmediateResults := by
  intro rd imm s
  simp only [encode, immOfU_encodeUJ]
  exact ⟨⟨hasUJ_encodeUJ .., writes_of_writeResult (o := operandsU rd imm) rfl⟩,
    hasUJ_encodeUJ .., writes_of_writeResult (o := operandsU rd imm) rfl⟩

/-- Settles O2: each has its row's format I encoding, and its effect writes the operation on src1 and imm. -/
theorem immediateArithmeticResults : Obligations.ImmediateArithmeticResults := by
  refine ⟨?_, ?_, ?_, ?_⟩ <;> exact opImm_of_exec (fun _ _ _ => rfl) fun _ _ _ _ => rfl

/-- Settles O3: the bit written is the comparison of the signed or of the unsigned readings. -/
theorem comparisonResults : Obligations.ComparisonResults := by
  simp only [Obligations.ComparisonResults, bit, ← boolWord_lessSigned, ← boolWord_lessUnsigned]
  refine ⟨?_, ?_, ?_, ?_⟩
  · exact opImm_of_exec (fun _ _ _ => rfl) fun _ _ _ _ => rfl
  · exact opImm_of_exec (fun _ _ _ => rfl) fun _ _ _ _ => rfl
  · exact opReg_of_exec (fun _ _ _ => rfl) fun _ _ _ _ => rfl
  · exact opReg_of_exec (fun _ _ _ => rfl) fun _ _ _ _ => rfl

/-- Settles O4: the shift amount of the decoded immediate is shamt, and the other words of the functs are among the
illegal encodings. -/
theorem immediateShiftResults : Obligations.ImmediateShiftResults := by
  simp only [Obligations.ImmediateShiftResults, ← shiftLeft_eq_ofNat, ← ushiftRight_eq_ofNat, ← sshiftRight_eq_ofInt]
  refine ⟨?_, ?_, ?_, fun cfg w hopcode h7 hfuncts => illegalEncodingsRejected cfg w ?_⟩
  · exact shiftImm_of_exec (fun _ _ _ => rfl) fun _ _ _ _ => rfl
  · exact shiftImm_of_exec (fun _ _ _ => rfl) fun _ _ _ _ => rfl
  · exact shiftImm_of_exec (fun _ _ _ => rfl) fun _ _ _ _ => rfl
  · rcases hfuncts with h3 | ⟨h3, h7'⟩
    · exact .inr (.inr (.inr (.inl ⟨hopcode, h3, h7⟩)))
    · exact .inr (.inr (.inr (.inr (.inl ⟨hopcode, h3, h7, h7'⟩))))

/-- Settles O5: the shift amount src2[4:0] is src2 modulo 32. -/
theorem registerShiftResults : Obligations.RegisterShiftResults := by
  simp only [Obligations.RegisterShiftResults, ← shiftLeft_eq_ofNat, ← ushiftRight_eq_ofNat, ← sshiftRight_eq_ofInt]
  refine ⟨?_, ?_, ?_⟩ <;> exact opReg_of_exec_regShamt (fun _ _ _ => rfl) fun _ _ _ _ => rfl

/-- Settles O6: each has its row's format R encoding, and its effect writes the operation on src1 and src2. -/
theorem registerArithmeticResults : Obligations.RegisterArithmeticResults := by
  refine ⟨?_, ?_, ?_, ?_, ?_⟩ <;> exact opReg_of_exec (fun _ _ _ => rfl) fun _ _ _ _ => rfl

end Sys2Proof.Machine

/-! SUPPORT. What a jump and a branch do, as their encodings and their effects give it, and the statements about the
control-transfer instructions (42_control_transfer.md). -/

namespace Sys2Proof.Machine

open Sys2Proof.Claim

/-! ### The fields and the immediate of an encoded jump or branch -/

theorem hasSB_encodeSB (imm : BitVec 12) (rs2 rs1 : Reg) (funct3 : BitVec 3) (opcode : BitVec 7) :
    HasSB (encodeSB imm rs2 rs1 funct3 opcode) opcode funct3 rs1 rs2 :=
  ⟨fieldOpcode_encodeSB .., fieldFunct3_encodeSB .., fieldRs1_encodeSB .., fieldRs2_encodeSB ..⟩

theorem immOfJ_encodeUJ (imm : BitVec 20) (rd : Reg) (opcode : BitVec 7) :
    immOfJ (encodeUJ imm rd opcode) = immJ imm := by
  rw [← immJ_fieldImmUJ, fieldImmUJ_encodeUJ]

theorem immOfB_encodeSB (layout : BImmLayout) (imm : BitVec 12) (rs2 rs1 : Reg) (funct3 : BitVec 3)
    (opcode : BitVec 7) :
    immOfB layout (encodeSB imm rs2 rs1 funct3 opcode) = immB layout funct3 rs1 rs2 imm := by
  rw [← immB_of_word, fieldFunct3_encodeSB, fieldRs1_encodeSB, fieldRs2_encodeSB, fieldImmSB_encodeSB]

/-! ### Instructions that only link and jump, or only branch -/

/-- The whole frame of an instruction whose effect is `jumpAndLink`. -/
theorem writes_of_jumpAndLink {i : Instr} {o : DecodedOperands} {target : Word} {s : State}
    (h : exec i s = jumpAndLink o target s) : Writes i s o.rd (s.pc + 4#32) target := by
  obtain ⟨t, ht, hregs, hpc, hmem, hsession, hcfg, -, hcount⟩ := jumpAndLink_spec o target s
  exact ⟨t, h.trans ht, ⟨hpc, hcfg, hcount⟩, hsession, byteAt_eq_of_mem hmem, hregs⟩

/-- The whole frame of an instruction whose effect is `branchIf`. -/
theorem movesPc_of_branchIf {i : Instr} {c : Bool} {o : DecodedOperands} {s : State}
    (h : exec i s = branchIf c o s) : MovesPc i s (if c then s.pc + o.imm else s.pc + 4#32) := by
  obtain ⟨t, ht, hregs, hpc, hmem, hsession, hcfg, -, hcount⟩ := branchIf_spec c o s
  exact ⟨t, h.trans ht, ⟨hpc, hcfg, hcount⟩, hsession, byteAt_eq_of_mem hmem, hregs⟩

/-- An instruction of format B with opcode BRANCH that branches when `cond src1 src2`, a test of `taken`. -/
theorem branch_of_exec {mk : Reg → Reg → BitVec 12 → Instr} {funct3 : BitVec 3} {taken : Word → Word → Prop}
    {cond : Word → Word → Bool} (hcond : ∀ a b, cond a b = true ↔ taken a b)
    (hencode : ∀ rs1 rs2 imm, encode (mk rs1 rs2 imm) = encodeSB imm rs2 rs1 funct3 0b1100011#7)
    (hexec : ∀ rs1 rs2 imm s, exec (mk rs1 rs2 imm) s =
      branchIf (cond (s.readReg rs1) (s.readReg rs2)) (operandsB funct3 rs1 rs2 imm s) s) :
    Branch mk funct3 taken := by
  intro rs1 rs2 imm s
  have hmoves := movesPc_of_branchIf (hexec rs1 rs2 imm s)
  rw [hencode, immOfB_encodeSB, ← hcond]
  refine ⟨hasSB_encodeSB .., fun htaken => ?_, fun hnot => ?_⟩
  · rwa [if_pos htaken] at hmoves
  · rwa [if_neg hnot] at hmoves

/-! ### The comparisons of the branches that test "greater or equal" -/

theorem not_lessSigned_iff (a b : Word) : (!lessSigned a b) = true ↔ a.toInt ≥ b.toInt := by
  rw [Bool.not_eq_true', ← Bool.not_eq_true, lessSigned_iff, Int.not_lt]

theorem not_lessUnsigned_iff (a b : Word) : (!lessUnsigned a b) = true ↔ a.toNat ≥ b.toNat := by
  rw [Bool.not_eq_true', ← Bool.not_eq_true, lessUnsigned_iff, Nat.not_lt]

/-! ### The statements -/

/-- Settles O10: both effects are `jumpAndLink`, whose target is computed from src1 before the link is written, and the
words of JALR's opcode with another funct3 are among the illegal encodings. -/
theorem jumpResults : Obligations.JumpResults := by
  refine ⟨fun rd imm s => ?_, fun rd rs1 imm s => ?_, fun cfg w hopcode h3 => illegalEncodingsRejected cfg w ?_⟩
  · rw [encode, immOfJ_encodeUJ]
    exact ⟨hasUJ_encodeUJ .., writes_of_jumpAndLink (o := operandsJ rd imm) rfl⟩
  · rw [encode, immOfI_encodeI]
    exact ⟨hasI_encodeI .., writes_of_jumpAndLink (o := operandsI rd rs1 imm s) rfl⟩
  · exact .inr (.inr (.inr (.inr (.inr (.inr (.inr (.inl ⟨hopcode, h3⟩)))))))

/-- Settles O11: each has its row's format B encoding, and the test of its effect is the condition on src1 and src2. -/
theorem branchResults : Obligations.BranchResults := by
  refine ⟨?_, ?_, ?_, ?_, ?_, ?_⟩
  · exact branch_of_exec (fun _ _ => decide_eq_true_iff) (fun _ _ _ => rfl) fun _ _ _ _ => rfl
  · exact branch_of_exec (fun _ _ => decide_eq_true_iff) (fun _ _ _ => rfl) fun _ _ _ _ => rfl
  · exact branch_of_exec lessSigned_iff (fun _ _ _ => rfl) fun _ _ _ _ => rfl
  · exact branch_of_exec not_lessSigned_iff (fun _ _ _ => rfl) fun _ _ _ _ => rfl
  · exact branch_of_exec lessUnsigned_iff (fun _ _ _ => rfl) fun _ _ _ _ => rfl
  · exact branch_of_exec not_lessUnsigned_iff (fun _ _ _ => rfl) fun _ _ _ _ => rfl

end Sys2Proof.Machine

/-! SUPPORT. What a load and a store do inside and outside the window, as their encodings and their effects give it, and
the statements about the loads and stores (43_load_store.md). -/

namespace Sys2Proof.Machine

open Sys2Proof.Claim

/-! ### The address of a load -/

/-- The address a load computes is the one its word gives. -/
theorem operandsI_address_eq_immOfI (rd rs1 : Reg) (imm : BitVec 12) (s : State) (funct3 : BitVec 3)
    (opcode : BitVec 7) :
    (operandsI rd rs1 imm s).address = s.readReg rs1 + immOfI (encodeI imm rs1 funct3 rd opcode) := by
  rw [immOfI_encodeI]
  rfl

/-! ### The extension of a narrow value that a word holds -/

theorem setWidth_setWidth_word {n : Nat} (hn : n ≤ 32) (v : BitVec n) : (v.setWidth 32).setWidth n = v := by
  rw [BitVec.setWidth_setWidth_of_le v hn, BitVec.setWidth_eq]

theorem sextLow_setWidth {n : Nat} (hn : n ≤ 32) (v : BitVec n) : sextLow n (v.setWidth 32) = v.signExtend 32 :=
  congrArg sext (setWidth_setWidth_word hn v)

theorem zextLow_setWidth {n : Nat} (hn : n ≤ 32) (v : BitVec n) : zextLow n (v.setWidth 32) = v.setWidth 32 :=
  congrArg (BitVec.setWidth 32) (setWidth_setWidth_word hn v)

/-! ### Instructions that only load, or only store -/

/-- The bytes and the frame of an instruction whose store passed the window test. -/
theorem stores_of_writeLE {i : Instr} {s t : State} {ea v : Word} {w : Width} (ht : exec i s = .next t)
    (hmem : t.mem = Memory.writeLE s.mem ea.toNat v w) (hretired : Retired s t (s.pc + 4#32))
    (hsession : t.session = s.session) (hregs : SameRegs s t) : Stores i s ea w.bytes v := by
  have hbyte (a : Nat) : t.byteAt a =
      if ea.toNat ≤ a ∧ a < ea.toNat + w.bytes then byteOf v (a - ea.toNat) else s.byteAt a := by
    rw [State.byteAt, hmem, read_writeLE, State.byteAt]
  refine ⟨t, ht, hretired, hsession, hregs, fun k hk => ?_, fun a ha => ?_⟩
  · rw [hbyte, if_pos (by omega), Nat.add_sub_cancel_left, byteOf]
  · rw [hbyte, if_neg ha]

/-- An instruction of format I with opcode LOAD that loads at width `w`, where `value` is what its extension makes of
the bytes read. -/
theorem load_of_exec {mk : Reg → Reg → BitVec 12 → Instr} {funct3 : BitVec 3} {w : Width} {ext : Word → Word}
    {value : State → Nat → Word}
    (hencode : ∀ rd rs1 imm, encode (mk rd rs1 imm) = encodeI imm rs1 funct3 rd 0b0000011#7)
    (hexec : ∀ rd rs1 imm s, exec (mk rd rs1 imm) s = loadResult (operandsI rd rs1 imm s) w ext s)
    (hvalue : ∀ s a, ext (Memory.readLE s.mem a w) = value s a) :
    Load mk funct3 w.bytes value := by
  intro rd rs1 imm s
  rw [hencode, hexec, ← operandsI_address_eq_immOfI]
  refine ⟨hasI_encodeI .., ?_⟩
  rcases loadResult_spec (operandsI rd rs1 imm s) w ext s with ⟨hin, h⟩ | ⟨hout, h⟩
  · rw [hin, ← hvalue]
    exact ⟨fun _ => writes_of_writeResult ((hexec rd rs1 imm s).trans h), nofun⟩
  · rw [hout]
    exact ⟨nofun, fun _ => h⟩

/-- An instruction of format S with opcode STORE that stores src2 at width `w`. -/
theorem store_of_exec {mk : Reg → Reg → BitVec 12 → Instr} {funct3 : BitVec 3} {w : Width}
    (hencode : ∀ rs1 rs2 imm, encode (mk rs1 rs2 imm) = encodeSB imm rs2 rs1 funct3 0b0100011#7)
    (hexec : ∀ rs1 rs2 imm s, exec (mk rs1 rs2 imm) s = storeOperand (operandsS rs1 rs2 imm s) w s) :
    Store mk funct3 w.bytes := by
  intro rs1 rs2 imm s
  rw [hencode, hexec, ← operandsS_address_eq_immOfS rs1 rs2]
  refine ⟨hasSB_encodeSB .., ?_⟩
  rcases storeOperand_spec (operandsS rs1 rs2 imm s) w s with
    ⟨hin, t, ht, hmem, hregs, hpc, hsession, hcfg, -, hcount⟩ | ⟨hout, h⟩
  · rw [hin]
    exact ⟨fun _ => stores_of_writeLE ((hexec rs1 rs2 imm s).trans ht) hmem ⟨hpc, hcfg, hcount⟩ hsession hregs, nofun⟩
  · rw [hout]
    exact ⟨nofun, fun _ => h⟩

/-! ### The statements -/

/-- Settles O12: each has its row's format I encoding, and the bytes it reads fill the low part of a word, which its
extension takes out again. -/
theorem loadResults : Obligations.LoadResults := by
  refine ⟨?_, ?_, ?_, ?_, ?_⟩
  · exact load_of_exec (w := .byte) (fun _ _ _ => rfl) (fun _ _ _ _ => rfl) fun _ _ => sextLow_setWidth (by decide) _
  · exact load_of_exec (w := .half) (fun _ _ _ => rfl) (fun _ _ _ _ => rfl) fun _ _ => sextLow_setWidth (by decide) _
  · exact load_of_exec (w := .word) (fun _ _ _ => rfl) (fun _ _ _ _ => rfl) fun _ _ => rfl
  · exact load_of_exec (w := .byte) (fun _ _ _ => rfl) (fun _ _ _ _ => rfl) fun _ _ => zextLow_setWidth (by decide) _
  · exact load_of_exec (w := .half) (fun _ _ _ => rfl) (fun _ _ _ _ => rfl) fun _ _ => zextLow_setWidth (by decide) _

/-- Settles O13: each has its row's format S encoding, and stores the low bytes of src2 at its own width. -/
theorem storeResults : Obligations.StoreResults := by
  refine ⟨?_, ?_, ?_⟩
  · exact store_of_exec (w := .byte) (fun _ _ _ => rfl) fun _ _ _ _ => rfl
  · exact store_of_exec (w := .half) (fun _ _ _ => rfl) fun _ _ _ _ => rfl
  · exact store_of_exec (w := .word) (fun _ _ _ => rfl) fun _ _ _ _ => rfl

end Sys2Proof.Machine

/-! SUPPORT. The statement about EBREAK (44_system_halt.md). -/

namespace Sys2Proof.Machine

/-- Settles O15: EBREAK has no operand fields, so its word is fixed, and its effect only records the halt (R190). -/
theorem ebreakHalts : Obligations.EbreakHalts := by
  intro s
  obtain ⟨t, ht, hregs, hpc, hmem, hsession, hcfg, -, hcount⟩ := execEbreak_spec s
  exact ⟨rfl, t, ht, ⟨hpc, hcfg, hcount⟩, hregs, byteAt_eq_of_mem hmem, hsession⟩

end Sys2Proof.Machine

/-! SUPPORT. The results of the multiplications and divisions as arithmetic, and the statements about them
(45_multiply_divide.md). -/

namespace Sys2Proof.Machine

open Sys2Proof.Claim

/-! ### Products and quotients as arithmetic -/

/-- Bits 63..32 of the 64-bit form of an exact product are the product divided by 2^32, rounding down. -/
theorem highWord_eq_ofInt (p : Int) : highWord p = BitVec.ofInt 32 (p / 2 ^ 32) := by
  apply BitVec.eq_of_toNat_eq
  rw [highWord, BitVec.extractLsb'_toNat, BitVec.toNat_ofInt, BitVec.toNat_ofInt, Nat.shiftRight_eq_div_pow]
  omega

theorem highWord_natCast (n : Nat) : highWord n = BitVec.ofNat 32 (n / 2 ^ 32) := by
  rw [highWord_eq_ofInt, ← BitVec.ofInt_natCast, Int.natCast_ediv, Nat.cast_pow, Nat.cast_ofNat]

theorem divSigned_eq_ite (a b : Word) : divSigned a b =
    if b = 0#32 then 0xFFFFFFFF#32
    else if a = 0x80000000#32 ∧ b = 0xFFFFFFFF#32 then 0x80000000#32
    else BitVec.ofInt 32 (a.toInt.tdiv b.toInt) := by
  simp only [divSigned, divOverflows, decide_eq_true_eq]

theorem remSigned_eq_ite (a b : Word) : remSigned a b =
    if b = 0#32 then a
    else if a = 0x80000000#32 ∧ b = 0xFFFFFFFF#32 then 0#32
    else BitVec.ofInt 32 (a.toInt - b.toInt * a.toInt.tdiv b.toInt) := by
  simp only [remSigned, divOverflows, decide_eq_true_eq]

/-! ### The law of the product and the law of the quotients -/

/-- The state a register-register instruction answers, read at a destination other than x0. -/
theorem exec_readReg_of_opReg {mk : Reg → Reg → Reg → Instr} {funct3 : BitVec 3} {funct7 : BitVec 7}
    {f : Word → Word → Word} (h : OpReg mk funct3 funct7 f) {rd : Reg} (hrd : rd ≠ 0#5) (rs1 rs2 : Reg) (s : State) :
    ∃ t, exec (mk rd rs1 rs2) s = .next t ∧ t.readReg rd = f (s.readReg rs1) (s.readReg rs2) := by
  obtain ⟨-, t, ht, -, -, -, hregs⟩ := h rd rs1 rs2 s
  exact ⟨t, ht, (hregs rd).trans (if_pos ⟨rfl, hrd⟩)⟩

theorem toNat_mul_eq_high_low (a b : Word) :
    a.toNat * b.toNat = (BitVec.ofNat 32 (a.toNat * b.toNat / 2 ^ 32)).toNat * 2 ^ 32 + (a * b).toNat := by
  have hlt : a.toNat * b.toNat / 2 ^ 32 < 2 ^ 32 :=
    Nat.div_lt_of_lt_mul (Nat.mul_lt_mul'' a.isLt b.isLt)
  rw [BitVec.toNat_ofNat, Nat.mod_eq_of_lt hlt, BitVec.toNat_mul, Nat.div_add_mod']

/-- Without overflow the exact quotient is a signed word, and with it the exact remainder. -/
theorem toInt_eq_mul_quotient_add_remainder {a b : Word} (h : ¬(a = 0x80000000#32 ∧ b = 0xFFFFFFFF#32)) :
    a.toInt = b.toInt * (BitVec.ofInt 32 (a.toInt.tdiv b.toInt)).toInt
      + (BitVec.ofInt 32 (a.toInt - b.toInt * a.toInt.tdiv b.toInt)).toInt := by
  have hq : (a.sdiv b).toInt = a.toInt.tdiv b.toInt :=
    BitVec.toInt_sdiv_of_ne_or_ne a b (not_and_or.mp h)
  rw [← Int.tmod_def, ← BitVec.toInt_srem, ← hq, BitVec.ofInt_toInt, BitVec.ofInt_toInt, hq, BitVec.toInt_srem,
    Int.mul_tdiv_add_tmod]

theorem toNat_eq_mul_quotient_add_remainder (a b : Word) :
    a.toNat = b.toNat * (BitVec.ofNat 32 (a.toNat / b.toNat)).toNat + (BitVec.ofNat 32 (a.toNat % b.toNat)).toNat := by
  rw [← BitVec.toNat_udiv, ← BitVec.toNat_umod, BitVec.ofNat_toNat, BitVec.ofNat_toNat, BitVec.setWidth_eq,
    BitVec.setWidth_eq, BitVec.toNat_udiv, BitVec.toNat_umod, Nat.div_add_mod]

/-! ### The statements -/

/-- Settles O7: each high word is that of the exact product, and rounds down. -/
theorem multiplyResults : Obligations.MultiplyResults := by
  simp only [Obligations.MultiplyResults, ← highWord_eq_ofInt, ← highWord_natCast]
  refine ⟨?_, ?_, ?_, ?_⟩ <;> exact opReg_of_exec (fun _ _ _ => rfl) fun _ _ _ _ => rfl

/-- Settles O8: each has its row's format R encoding, and the special cases of its effect are those of its rule. -/
theorem divideResults : Obligations.DivideResults := by
  simp only [Obligations.DivideResults, ← divSigned_eq_ite, ← remSigned_eq_ite]
  refine ⟨?_, ?_, ?_, ?_⟩ <;> exact opReg_of_exec (fun _ _ _ => rfl) fun _ _ _ _ => rfl

/-- Settles O9: the words the instructions answer are those of `divideResults` and `multiplyResults`. -/
theorem divisionAndProductLaws : Obligations.DivisionAndProductLaws := by
  obtain ⟨hdiv, hdivu, hrem, hremu⟩ := divideResults
  obtain ⟨hmul, -, -, hmulhu⟩ := multiplyResults
  intro rd rs1 rs2 s hrd
  refine ⟨fun hb hover => ?_, ?_⟩
  · obtain ⟨q, hq, hqv⟩ := exec_readReg_of_opReg hdiv hrd rs1 rs2 s
    obtain ⟨r, hr, hrv⟩ := exec_readReg_of_opReg hrem hrd rs1 rs2 s
    obtain ⟨qu, hqu, hquv⟩ := exec_readReg_of_opReg hdivu hrd rs1 rs2 s
    obtain ⟨ru, hru, hruv⟩ := exec_readReg_of_opReg hremu hrd rs1 rs2 s
    refine ⟨q, r, qu, ru, hq, hr, hqu, hru, ?_, ?_⟩
    · simp only [hqv, hrv, if_neg hb, if_neg hover]
      exact toInt_eq_mul_quotient_add_remainder hover
    · simp only [hquv, hruv, if_neg hb]
      exact toNat_eq_mul_quotient_add_remainder _ _
  · obtain ⟨lo, hlo, hlov⟩ := exec_readReg_of_opReg hmul hrd rs1 rs2 s
    obtain ⟨hi, hhi, hhiv⟩ := exec_readReg_of_opReg hmulhu hrd rs1 rs2 s
    refine ⟨lo, hi, hlo, hhi, ?_⟩
    rw [hhiv, hlov]
    exact toNat_mul_eq_high_low _ _

end Sys2Proof.Machine

/-! SUPPORT. The sessions a run passes through and ends in, and the statements about faults and reports
(60_exceptions.md). -/

namespace Sys2Proof.Machine

/-- Settles O17: an instruction completes, and then only EBREAK has moved the session, or it is a load or a store whose
access faults. -/
theorem onlyMemoryAccessesFault : Obligations.OnlyMemoryAccessesFault := by
  intro i s
  rcases exec_cases i s with ⟨t, ht, hc⟩ | ⟨hop, a, ha⟩
  · refine ⟨t, ht, ?_⟩
    rcases hc.session with hsame | ⟨hi, hended, -, -⟩
    · exact .inl hsame
    · exact .inr (.inl ⟨hi, hended⟩)
  · exact ⟨_, ha, .inr (.inr ⟨hop, a, ha⟩)⟩

/-! ### The reports -/

theorem diagnostic_of_invalidInstruction {s : State} {p c q : Word}
    (h : s.session = .abort p c (.invalidInstruction q)) : s.diagnostic = some (s.diagnosticAt p) := by
  rw [State.diagnostic, h]

theorem diagnosticAt_words_getElem? (s : State) (p : Word) {j : Nat} (hj : j < 2) :
    (s.diagnosticAt p).words[j]? = some (s.shownWord (p.toNat + 4 * j)) :=
  match j with
  | 0 | 1 => rfl
  | _ + 2 => absurd hj (by omega)

theorem haltReport_of_ended {s : State} {p c : Word} (h : s.session = .ended p c) :
    s.haltReport = some (p, c, decide (c = 0#32)) := by
  rw [State.haltReport, h]

/-- Settles O51: the diagnostic shows the 8 bytes from halt_pc up, and the words at halt_pc and 4 above it. -/
theorem reportsShowTheState : Obligations.ReportsShowTheState := by
  refine fun s p c q => ⟨fun h => ?_, haltReport_of_ended⟩
  refine ⟨s.diagnosticAt p, diagnostic_of_invalidInstruction h, rfl, rfl, shownBytes_length s _ 8, rfl,
    fun k hk => shownBytes_getElem? s hk, fun j hj => ?_⟩
  rw [diagnosticAt_words_getElem? s p hj, shownWord_eq]
  rfl

/-! ### How a run ends -/

/-- The sessions inside a run: it runs on, or a halt or a fault has ended it. -/
inductive InRun : Session → Prop
  | running : InRun .running
  | ended (p c : Word) : InRun (.ended p c)
  | abort (p : Word) (f : Fault) : InRun (.abort p haltRetMax f)

theorem step_of_inRun {s : State} (hs : InRun s.session) : ∃ t, step s = .next t ∧ InRun t.session := by
  obtain ⟨t, ht, -, hsame | ⟨-, hended | ⟨f, rfl⟩⟩⟩ := stepMovesTheSession s
  · exact ⟨t, ht, hsame ▸ hs⟩
  · exact ⟨t, ht, hended ▸ .ended _ _⟩
  · exact ⟨_, ht, .abort _ _⟩

theorem runLoop_of_inRun (n : Nat) {s : State} (hs : InRun s.session) :
    ∃ t, State.runLoop n s = .next t ∧ InRun t.session := by
  induction n generalizing s with
  | zero => exact ⟨s, rfl, hs⟩
  | succ n ih =>
    rw [State.runLoop]
    cases hterm : s.session.terminal with
    | true => exact ⟨s, rfl, hs⟩
    | false =>
      obtain ⟨t, ht, hin⟩ := step_of_inRun hs
      rw [step_of_not_terminal hterm] at ht
      rw [ht]
      exact ih hin

/-- A run from a session that is not terminal answers a state in Stop, End or Abort. -/
theorem run_of_not_terminal {s : State} (hterm : s.session.terminal = false) (n : BitVec 64) :
    ∃ t, s.run n = .next t ∧ (t.session = .stop ∨ (∃ p c, t.session = .ended p c) ∨
      ∃ p f, t.session = .abort p haltRetMax f) := by
  obtain ⟨t, hloop, hin⟩ := runLoop_of_inRun n.toNat (s := { s with session := .running }) .running
  refine ⟨t.pause, by rw [State.run, hterm, hloop]; rfl, ?_⟩
  generalize hsession : t.session = x at hin
  cases hin with
  | running => exact .inl (by rw [pause_of_running hsession, State.stopped])
  | ended p c => exact .inr (.inl ⟨p, c, by rw [pause_of_not_running (by simp [hsession]), hsession]⟩)
  | abort p f => exact .inr (.inr ⟨p, f, by rw [pause_of_not_running (by simp [hsession]), hsession]⟩)

/-- Settles O52: what is reported before the retired count depends on the session the run ended in alone. -/
theorem runReportsItsEnd : Obligations.RunReportsItsEnd := by
  refine fun s n => ⟨fun hterm => runReports_terminal hterm n, fun hterm => ?_⟩
  obtain ⟨t, ht, hend⟩ := run_of_not_terminal hterm n
  refine ⟨t, ht, ?_⟩
  rw [runReports_next hterm ht, State.endReports]
  rcases hend with h | ⟨p, c, h⟩ | ⟨p, f, h⟩
  · exact .inl ⟨h, by rw [h]; rfl⟩
  · exact .inr (.inl ⟨p, c, h, by rw [h]; rfl⟩)
  · cases f with
    | outOfBoundAccess a => exact .inr (.inr (.inl ⟨p, a, h, by rw [h]; rfl⟩))
    | invalidInstruction q =>
      exact .inr (.inr (.inr ⟨p, q, t.diagnosticAt p, h, diagnostic_of_invalidInstruction h, rfl, by rw [h]; rfl⟩))

end Sys2Proof.Machine

/-! SUPPORT. How a run from Stop ends and what it counts, the memory of an image, and the statements about runs and
session creation (70_reset_and_hazards.md). -/

namespace Sys2Proof.Machine

/-! ### The bounded run from Stop -/

/-- A step from Stop, below the counter's last value, counts one and stays in Stop or goes to End, or it faults and
counts none. -/
theorem step_of_stop {s : State} (hs : s.session = .stop) (hroom : s.retired.toNat + 1 < 2 ^ 64) :
    ∃ t, step s = .next t ∧
      ((t.retired.toNat = s.retired.toNat + 1 ∧ (t.session = .stop ∨ ∃ p c, t.session = .ended p c)) ∨
        ∃ f, t = s.takeFault f) := by
  have hmax : s.retired ≠ BitVec.allOnes 64 := by
    intro h
    rw [h] at hroom
    exact absurd hroom (by decide)
  rcases step_cases s with ⟨hterm, -⟩ | ⟨-, ⟨w, i, t, -, -, h, hc⟩ | ⟨a, h⟩ | h⟩
  · rw [hs] at hterm
    cases hterm
  · refine ⟨t, h, .inl ⟨?_, ?_⟩⟩
    · rw [hc.count hmax, BitVec.toNat_add_of_lt (by simpa using hroom)]
      rfl
    · exact hc.session.imp (fun hsame => hsame.trans hs) (fun ⟨_, hended, _, _⟩ => ⟨_, _, hended⟩)
  · exact ⟨_, h, .inr ⟨_, rfl⟩⟩
  · exact ⟨_, h, .inr ⟨_, rfl⟩⟩

/-- `t` is where a run of `n` steps from `s` may end (R265): in End, in Abort, or in Stop after `n` retired steps, with
at most `n` retired in every case. -/
structure EndsWithin (n : Nat) (s t : State) : Prop where
  session : (∃ p c, t.session = .ended p c) ∨ (∃ p f, t.session = .abort p haltRetMax f) ∨
    (t.session = .stop ∧ t.retired.toNat = s.retired.toNat + n)
  lower : s.retired.toNat ≤ t.retired.toNat
  upper : t.retired.toNat ≤ s.retired.toNat + n

/-- A step that counts one, before a run that ends within `n`. -/
theorem EndsWithin.succ {n : Nat} {s u t : State} (h : EndsWithin n u t)
    (hcount : u.retired.toNat = s.retired.toNat + 1) : EndsWithin (n + 1) s t := by
  obtain ⟨hsession, hlower, hupper⟩ := h
  refine ⟨hsession.imp_right (Or.imp_right fun ⟨hstop, hn⟩ => ⟨hstop, ?_⟩), ?_, ?_⟩ <;> omega

/-- `n` steps from Stop end as R265 says: each counts one until one of them leaves Stop, and then nothing changes. -/
theorem coreRun_endsWithin (n : Nat) {s : State} (hs : s.session = .stop) (hroom : s.retired.toNat + n < 2 ^ 64) :
    ∃ t, Host.Core.run core n s = .next t ∧ EndsWithin n s t := by
  induction n generalizing s with
  | zero => exact ⟨s, rfl, .inr (.inr ⟨hs, rfl⟩), le_rfl, le_rfl⟩
  | succ n ih =>
    obtain ⟨u, hu, ⟨hcount, hstop | ⟨p, c, hended⟩⟩ | ⟨f, rfl⟩⟩ := step_of_stop hs (by omega)
    all_goals rw [run_succ_of_next (M := core) hu]
    · obtain ⟨t, ht, hends⟩ := ih hstop (by omega)
      exact ⟨t, ht, hends.succ hcount⟩
    · exact ⟨u, coreRun_of_terminal (hended ▸ rfl) n, .inl ⟨p, c, hended⟩, by omega, by omega⟩
    · exact ⟨_, coreRun_of_terminal rfl n, .inr (.inl ⟨_, f, rfl⟩), le_rfl, Nat.le_add_right ..⟩

/-- Settles O45: the run is `n` steps of the machine. -/
theorem runEnds : Obligations.RunEnds := by
  intro n s hs hroom
  obtain ⟨t, ht, hsession, hlower, hupper⟩ := coreRun_endsWithin n.toNat hs hroom
  exact ⟨t, (runIsIteratedStep n s (by simp [hs])).trans ht, hsession, hlower, hupper⟩

/-! ### The state `init` makes -/

/-- The session `init` answers for parameters and an image it accepts. -/
def initState (cfg : Config) (gpr : Vector Word 32) (image : List Byte) : State :=
  { regs := initRegs gpr, pc := resetPc, mem := Memory.ofBytes pmemBase image, session := .stop, retired := 0#64
    cfg := cfg, draws := 0 }

theorem init_of_fits {cfg : Config} {image : List Byte} (hcfg : cfg.ok = true) (hfits : image.length ≤ cfg.pmemSize)
    (gpr : Vector Word 32) : State.init cfg gpr image = .ok (initState cfg gpr image) := by
  rw [State.init, if_pos hcfg, if_pos hfits]
  rfl

theorem init_of_too_large {cfg : Config} {image : List Byte} (hcfg : cfg.ok = true)
    (hlarge : cfg.pmemSize < image.length) (gpr : Vector Word 32) :
    State.init cfg gpr image = .error (.imageTooLarge image.length) := by
  rw [State.init, if_pos hcfg, if_neg (Nat.not_le.2 hlarge)]

/-- `init` answers a state only for parameters and an image it accepts. -/
theorem init_eq_ok {cfg : Config} {gpr : Vector Word 32} {image : List Byte} {s : State}
    (h : State.init cfg gpr image = .ok s) :
    cfg.ok = true ∧ image.length ≤ cfg.pmemSize ∧ s = initState cfg gpr image := by
  unfold State.init at h
  split at h
  · next hcfg =>
    split at h
    · next hfits => exact ⟨hcfg, hfits, (Except.ok.inj h).symm⟩
    · cases h
  · cases h

theorem read_ofBytes_of_lt {a b : Nat} (h : b < a) (bs : List Byte) : Memory.read (Memory.ofBytes a bs) b = 0#8 := by
  induction bs generalizing a with
  | nil => rfl
  | cons v bs ih =>
    have hbs : Memory.read (Memory.ofBytes (a + 1) bs) b = 0#8 := ih (by omega)
    rw [Memory.ofBytes]
    split
    · exact hbs
    · rw [Memory.read, if_neg (by omega), hbs]

/-- A byte of 0 is not listed and reads 0 all the same, for the bytes above it are listed at higher addresses. -/
theorem read_ofBytes_cons (a : Nat) (v : Byte) (bs : List Byte) (b : Nat) :
    Memory.read (Memory.ofBytes a (v :: bs)) b = if b = a then v else Memory.read (Memory.ofBytes (a + 1) bs) b := by
  rw [Memory.ofBytes]
  split
  · next hv =>
    split
    · next hb =>
      have hbelow : b < a + 1 := by omega
      rw [read_ofBytes_of_lt hbelow bs, hv]
    · rfl
  · rfl

/-- The byte an image puts at an address: its own byte, and 0 below it and above it. -/
theorem read_ofBytes (a : Nat) (bs : List Byte) (b : Nat) :
    Memory.read (Memory.ofBytes a bs) b = if a ≤ b then bs.getD (b - a) 0#8 else 0#8 := by
  induction bs generalizing a with
  | nil => simp [Memory.ofBytes, Memory.read]
  | cons v bs ih =>
    rw [read_ofBytes_cons, ih]
    rcases Nat.lt_trichotomy b a with hlt | rfl | hgt
    · rw [if_neg (by omega), if_neg (by omega), if_neg (by omega)]
    · simp
    · have hindex : b - a = b - (a + 1) + 1 := by omega
      rw [if_neg (by omega), if_pos (by omega), if_pos (by omega), hindex, List.getD_cons_succ]

/-- `INIT_GPR` gives every register but x0, which is 0. -/
theorem readReg_of_initRegs {s : State} {gpr : Vector Word 32} (h : s.regs = initRegs gpr) (r : Reg) :
    s.readReg r = if r = 0#5 then 0#32 else gpr[r.toNat]'r.isLt := by
  unfold State.readReg
  split
  · rfl
  · next hr =>
    have hslot : 0 ≠ r.toNat := fun e => hr (BitVec.eq_of_toNat_eq e.symm)
    simp [h, initRegs, hslot]

/-- The memory of an image no longer than the bank lies in the bank. -/
theorem inBank_ofBytes {cfg : Config} {image : List Byte} (hfits : image.length ≤ cfg.pmemSize) :
    Memory.inBank cfg (Memory.ofBytes pmemBase image) = true := by
  rw [Memory.inBank, List.all_eq_true]
  intro c hc
  obtain ⟨hlo, hhi⟩ := mem_ofBytes hc
  rw [Bool.and_eq_true, decide_eq_true_eq, decide_eq_true_eq]
  omega

/-! ### The statements about session creation -/

/-- Settles O48: the length of the image decides between the two answers, and the fields are those of `initState`. -/
theorem initLoadsTheImage : Obligations.InitLoadsTheImage := by
  refine fun cfg gpr image hcfg => ⟨fun hlarge => init_of_too_large hcfg hlarge gpr, fun hfits => ?_⟩
  exact ⟨_, init_of_fits hcfg hfits gpr, read_ofBytes pmemBase image, readReg_of_initRegs rfl, rfl, rfl, rfl, rfl⟩

/-- Settles O54: `init` has tested the parameters and the image's length, clears slot 0 and leaves the session in
Stop. -/
theorem initIsWellFormed : Obligations.InitIsWellFormed := by
  intro cfg gpr image s h
  obtain ⟨hcfg, hfits, rfl⟩ := init_eq_ok h
  exact {
    cfgOk := hcfg
    zeroSlot := Vector.getElem_set_self ..
    memWf := wf_ofBytes pmemBase image
    memInBank := inBank_ofBytes hfits
    agrees := sessionAgrees_of_not_terminal rfl }

/-- The reset state is what `init` answers for the default parameters, registers that are 0 and an empty image
(R255). -/
theorem init_eq_reset : State.init Config.default (Vector.replicate 32 0#32) [] = .ok State.reset := rfl

/-- Settles O47: the reset state is the session of an empty image, and its fields are those `init` gives. -/
theorem resetValues : Obligations.ResetValues := by
  obtain ⟨s, hs, hbyte, hreg, hpc, hsession, hretired, -⟩ :=
    (initLoadsTheImage Config.default (Vector.replicate 32 0#32) [] ok_default).2 (Nat.zero_le _)
  obtain rfl : State.reset = s := Except.ok.inj (init_eq_reset.symm.trans hs)
  exact ⟨hpc, hreg 0#5, hsession, hretired, fun a => by simp [hbyte a]⟩

end Sys2Proof.Machine
